-- ==== Sys2Proof/Word.lean ====
section
/-! DEFINITION. The word types of the binarytime FP128 core: the byte, the 128-bit raw value and the
192-bit integer result (rules R2, R7, R11, R28). -/

namespace Sys2Proof

/-- Rule R11: "A byte is 8 bits". -/
abbrev Byte := BitVec 8

/-- Rules R2, R21: the 128-bit word that holds one raw Q64.64 value (parameter `XW` of rule R7). -/
abbrev Word := BitVec 128

/-- Rule R28: the 192-bit two's complement integer of `MULINT` (parameter `IRW` of rule R7). -/
abbrev IWord := BitVec 192

end Sys2Proof
end

