-- ==== Sys2Proof/Config.lean ====
section
/-! DEFINITION. What the implementation fixes (the parameters of rule R7, log entry 10) and the one value the spec
leaves open, the latency of a command (rules R7, R244, R250). -/

namespace Sys2Proof.Config

/-- Rule R7, `XW`: width of the integer operands `x`, `y`. -/
abbrev XW : Nat := 128

/-- Rule R7, `NW`: width of the word in which the divisor's leading zeros are counted. -/
abbrev NW : Nat := 192

/-- Rule R7, `IRW`: width of the integer result register. -/
abbrev IRW : Nat := 192

/-- Rule R7, `TMAX`: capacity of the input text buffer in bytes. -/
abbrev TMAX : Nat := 127

/-- Rule R7, `OTMAX`: capacity of the output text buffer in bytes. -/
abbrev OTMAX : Nat := 34

/-- Rule R7, `CW`: width of a command code. -/
abbrev CW : Nat := 8

/-- Rule R7, `EW`: width of the error register. -/
abbrev EW : Nat := 3

/-- Rule R7, `PW`: width of the precision registers. -/
abbrev PW : Nat := 8

/-- FREE VALUE (DESIGN CHOICE in its form, log entry 4; safe). Rules R7, R244, R250 leave the latency of
a command open: "unspecified, finite, at least 1". `extraClocks n` is how many clocks beyond the first
the `n`-th command issued takes. It has no body, so nothing can be proved about its values; it is read by
the pin-level machine of `Machine/Pins.lean` only, never by `step`. -/
opaque extraClocks : Nat → Nat

end Sys2Proof.Config
end

