-- ==== Sys2Proof/Syntax.lean ====
section
/-! DEFINITION. The commands of the core, one constructor per row of spec/opcode_table.json (rule R72).
Rule R71: no command has an immediate or a register field, so no constructor has an argument. -/

namespace Sys2Proof

/-- Rule R72, the 19 commands. -/
inductive Instr where
  /-- `CONS`, rule R100: the Q64.64 value of `x / y`. -/
  | cons
  /-- `ADD`, rule R120. -/
  | add
  /-- `SUB`, rule R121. -/
  | sub
  /-- `QUO`, rule R122: integer division of the raw values. -/
  | quo
  /-- `NEG`, rule R123. -/
  | neg
  /-- `CMP`, rule R124: three-way comparison. -/
  | cmp
  /-- `SIGN`, rule R125. -/
  | sign
  /-- `ISNEG`, rule R126. -/
  | isneg
  /-- `ISZERO`, rule R127. -/
  | iszero
  /-- `MUL`, rule R140: the Q64.64 product. -/
  | mul
  /-- `MULINT`, rule R146: value times integer, as an integer. -/
  | mulint
  /-- `TOB16`, rule R160: the two's complement 16-byte form. -/
  | tob16
  /-- `TOSM`, rule R161: the sign-magnitude 17-byte form. -/
  | tosm
  /-- `FROMSM`, rule R162. -/
  | fromsm
  /-- `TOHEX`, rule R179: hex text with automatic precision. -/
  | tohex
  /-- `TOHEXP`, rule R178: hex text with explicit precision. -/
  | tohexp
  /-- `FROMHEX`, rule R180. -/
  | fromhex
  /-- `TOB64`, rule R198. -/
  | tob64
  /-- `FROMB64`, rule R199. -/
  | fromb64
deriving DecidableEq, Repr

end Sys2Proof
end

