-- ==== Sys2Proof/Machine/HostPort.lean ====
section
/-! DEFINITION. The host's side of the core as plain data: the register names (rule R20), the four host
actions (rules R51, R52), what a read returns, and the lines of a host script (rules R74, R75). -/

namespace Sys2Proof.Machine

/-- The registers of rule R20, by name. -/
inductive Reg where
  | a | b | hs | le | ib | it | itlen
  | r | ir | sr | ob | oblen | ot | otlen
  | cmd | err | busy
deriving DecidableEq, Repr

/-- Rule R20, the class column. -/
inductive RegClass where
  | operand | result | control | status
deriving DecidableEq, Repr

/-- Rules R51, R52: one `WR X, v`. Only operand registers have a write port, and the value has the
register's width; a write to any other register, or of another width, is not a term of this type. -/
inductive OperandWrite where
  | a (v : Word)
  | b (v : Word)
  | hs (v : BitVec 8)
  | le (v : BitVec 8)
  | ib (v : Vector Byte 17)
  | it (v : Vector Byte 127)
  | itlen (v : BitVec 7)
deriving DecidableEq, Repr

/-- Rule R51: what one `RD X` returns, the register's name with its value. -/
inductive ReadData where
  | a (v : Word)
  | b (v : Word)
  | hs (v : BitVec 8)
  | le (v : BitVec 8)
  | ib (v : Vector Byte 17)
  | it (v : Vector Byte 127)
  | itlen (v : BitVec 7)
  | r (v : Word)
  | ir (v : IWord)
  | sr (v : BitVec 2)
  | ob (v : Vector Byte 17)
  | oblen (v : BitVec 5)
  | ot (v : Vector Byte 34)
  | otlen (v : BitVec 6)
  | cmd (v : BitVec 8)
  | err (v : BitVec 3)
  | busy (v : BitVec 1)
deriving DecidableEq, Repr

/-- Rule R51: "The host acts on the core through four actions, and nothing else changes the core's
state". -/
inductive HostAction where
  | wr (w : OperandWrite)
  | rd (x : Reg)
  | cmd (c : BitVec 8)
  | reset
deriving DecidableEq, Repr

/-- Rule R74: the value of a `WR` line. A decimal or 0x numeral is a number; a quoted text is its ASCII
codes. -/
inductive ScriptValue where
  | num (n : Nat)
  | text (t : List Byte)
  | bytes (l : List Byte)
deriving DecidableEq, Repr

/-- Rules R74, R75: one line of a host script, a host action or a pseudo-action. A line may be ill-formed
(`ScriptLine.wf` of `WellFormed.lean` says which). -/
inductive ScriptLine where
  /-- `WR <reg>, <value>` -/
  | wr (x : Reg) (v : ScriptValue)
  /-- `RD <reg>` -/
  | rd (x : Reg)
  /-- `CMD <mnemonic>` -/
  | cmd (i : Instr)
  /-- `CMD <code>` -/
  | code (c : BitVec 8)
  /-- `RESET` -/
  | reset
  /-- `MV <opreg>, <resreg>` -/
  | mv (dst src : Reg)
  /-- `MVT` -/
  | mvt
  /-- `MVB` -/
  | mvb
  /-- `LDZERO <opreg>` -/
  | ldzero (x : Reg)
  /-- `LDONE <opreg>` -/
  | ldone (x : Reg)
deriving DecidableEq, Repr

end Sys2Proof.Machine
end

