-- ==== Sys2Proof/WellFormed.lean ====
section
/-! DEFINITION. Well-formed terms: the commands (rule R71, all of them) and the lines of a host script
(rules R51, R52, R74, R75). -/

namespace Sys2Proof

/-- Rule R71: "No command has an immediate and no command has a register field", so there is no operand
that could be out of range and every command is well-formed. -/
def Instr.wf (_ : Instr) : Bool := true

namespace Machine

/-- Rule R20, the class column. -/
def Reg.cls : Reg → RegClass
  | .a | .b | .hs | .le | .ib | .it | .itlen => .operand
  | .r | .ir | .sr | .ob | .oblen | .ot | .otlen => .result
  | .cmd => .control
  | .err | .busy => .status

/-- Rule R20, the width column, in bits, by the parameters of rule R7. -/
def Reg.width : Reg → Nat
  | .a | .b | .r => Config.XW
  | .hs | .le => Config.PW
  | .cmd => Config.CW
  | .ib | .ob => 17 * 8
  | .it => Config.TMAX * 8
  | .itlen => 7
  | .ir => Config.IRW
  | .sr => 2
  | .oblen => 5
  | .ot => Config.OTMAX * 8
  | .otlen => 6
  | .err => Config.EW
  | .busy => 1

/-- Rules R24, R25, R30, R31: the registers that hold a byte string. -/
def Reg.isBuffer : Reg → Bool
  | .ib | .it | .ob | .ot => true
  | .a | .b | .hs | .le | .itlen | .r | .ir | .sr | .oblen | .otlen | .cmd | .err | .busy => false

/-- Rules R51, R52, R74: `v` is a value of register `x`'s width, "a byte string of the register's length
for `IB` and `IT`"; a text stands for `IT` alone and has at most 127 ASCII characters. -/
def ScriptValue.fits (x : Reg) : ScriptValue → Bool
  | .num n => !x.isBuffer && decide (n < 2 ^ x.width)
  | .text t => decide (x = .it) && decide (t.length ≤ Config.TMAX) && t.all (fun c => decide (c.toNat < 128))
  | .bytes l => x.isBuffer && decide (l.length * 8 = x.width)

/-- Rules R52, R74, R75: the lines of a host script that stand for host actions (DEDUCED where the rules give only an
example, log entry 9). -/
def ScriptLine.wf : ScriptLine → Bool
  | .wr x v => decide (x.cls = .operand) && v.fits x
  | .rd _ => true
  | .cmd i => i.wf
  | .code _ => true
  | .reset => true
  | .mv dst src => decide (dst.cls = .operand) && decide (src.cls = .result)
      && decide (dst.width = src.width) && decide (dst.isBuffer = src.isBuffer)
  | .mvt => true
  | .mvb => true
  | .ldzero x => decide (x.cls = .operand) && !x.isBuffer
  | .ldone x => decide (x.cls = .operand) && decide (x.width = 128)

end Machine

end Sys2Proof
end

