-- ==== Sys2Proof/Decode.lean ====
section
/-! DEFINITION. The decoder, total on every 8-bit code and rejecting by name (rules R72, R73), and the
encoder, written from the fields of the one format `C8` (rule R70). -/

namespace Sys2Proof

/-- Why a code is no command. Rule R73: the 237 codes outside the table are reserved. -/
inductive DecodeError where
  | reserved (c : BitVec 8)
deriving DecidableEq, Repr

/-- One row of the command table of rule R72: the value of `CMD[7:0]` and its command. -/
structure CommandRow where
  code  : BitVec 8
  instr : Instr
deriving DecidableEq, Repr

/-- The command table of rule R72. -/
def commandTable : List CommandRow :=
  [⟨0x10#8, .cons⟩,
   ⟨0x20#8, .add⟩, ⟨0x21#8, .sub⟩, ⟨0x22#8, .quo⟩, ⟨0x23#8, .neg⟩,
   ⟨0x24#8, .cmp⟩, ⟨0x25#8, .sign⟩, ⟨0x26#8, .isneg⟩, ⟨0x27#8, .iszero⟩] ++
  [⟨0x30#8, .mul⟩, ⟨0x31#8, .mulint⟩,
   ⟨0x40#8, .tob16⟩, ⟨0x41#8, .tosm⟩, ⟨0x42#8, .fromsm⟩,
   ⟨0x50#8, .tohex⟩, ⟨0x51#8, .tohexp⟩, ⟨0x52#8, .fromhex⟩,
   ⟨0x60#8, .tob64⟩, ⟨0x61#8, .fromb64⟩]

/-- Rule R72: "a decoder compares all 8 bits (mask `0xFF`)"; rule R73 rejects the rest by name. -/
def decode (c : BitVec 8) : Except DecodeError Instr :=
  match commandTable.find? (fun row => row.code == c) with
  | some row => .ok row.instr
  | none => .error (.reserved c)

/-- Rule R70: every command is exactly one byte, so a byte string is decoded one byte at a time; the rest
of the string is returned. The empty string has no command. -/
def decodeBytes : List Byte → Option (Except DecodeError Instr × List Byte)
  | [] => none
  | c :: rest => some (decode c, rest)

/-- Rule R70, bits 7:4: "1 division engine, 2 adder and comparator, 3 multiplier, 4 byte codec, 5 hex
codec, 6 base64 codec". -/
def Instr.unit : Instr → BitVec 4
  | .cons => 1
  | .add | .sub | .quo | .neg | .cmp | .sign | .isneg | .iszero => 2
  | .mul | .mulint => 3
  | .tob16 | .tosm | .fromsm => 4
  | .tohex | .tohexp | .fromhex => 5
  | .tob64 | .fromb64 => 6

/-- Rule R70, bits 3:0: the function within the unit (the low digit of the code column of rule R72). -/
def Instr.fn : Instr → BitVec 4
  | .cons => 0
  | .add => 0 | .sub => 1 | .quo => 2 | .neg => 3
  | .cmp => 4 | .sign => 5 | .isneg => 6 | .iszero => 7
  | .mul => 0 | .mulint => 1
  | .tob16 => 0 | .tosm => 1 | .fromsm => 2
  | .tohex => 0 | .tohexp => 1 | .fromhex => 2
  | .tob64 => 0 | .fromb64 => 1

/-- Rule R70: the code of a command, `{unit, fn}`. -/
def encode (i : Instr) : BitVec 8 := i.unit ++ i.fn

/-- Rule R72, the mnemonic column; rule R74: "a command as its mnemonic alone, upper case". -/
def Instr.mnemonic : Instr → String
  | .cons => "CONS"
  | .add => "ADD" | .sub => "SUB" | .quo => "QUO" | .neg => "NEG"
  | .cmp => "CMP" | .sign => "SIGN" | .isneg => "ISNEG" | .iszero => "ISZERO"
  | .mul => "MUL" | .mulint => "MULINT"
  | .tob16 => "TOB16" | .tosm => "TOSM" | .fromsm => "FROMSM"
  | .tohex => "TOHEX" | .tohexp => "TOHEXP" | .fromhex => "FROMHEX"
  | .tob64 => "TOB64" | .fromb64 => "FROMB64"

/-- The host's question about the decoder: the command read from an instruction of `nbits` bits whose
value is `w`. Rule R70: a command is 8 bits, so a word with a bit set above bit 7 (or above `nbits`) is
none (DEDUCED, log entry 13). -/
def decodeTableWord (nbits w : Nat) : Option Instr :=
  if nbits ≤ 8 ∧ w < 2 ^ nbits then
    match decode (BitVec.ofNat 8 w) with
    | .ok i => some i
    | .error _ => none
  else none

end Sys2Proof
end

