-- ==== Sys2Proof/Machine/ByteStrings.lean ====
section
/-! DEFINITION. The byte-string notation of rule R11 and the two fixed-length buffers' contents (rules
R30, R31). Byte 0 is the first byte; both binary forms are big-endian (rule R56). -/

namespace Sys2Proof.Machine

/-- Rule R11: `be_k(n)`, the `k`-byte big-endian string of `n`. -/
def be : Nat → Nat → List Byte
  | 0, _ => []
  | k + 1, n => BitVec.ofNat 8 (n >>> (8 * k)) :: be k n

/-- Rule R11: `beval(s)`, the big-endian unsigned value of `s`; 0 for the empty string. -/
def beval (s : List Byte) : Nat := s.foldl (fun acc c => acc * 256 + c.toNat) 0

/-- Rule R11: `zeros(k)`. -/
def zeros (k : Nat) : List Byte := List.replicate k 0

/-- Rule R11: `s[i:j]`, the half-open slice of bytes `i` to `j - 1`. -/
def slice (s : List Byte) (i j : Nat) : List Byte := (s.take j).drop i

/-- The contents of an `n`-byte buffer whose first bytes are `l` and whose other bytes are 0 (rules R30,
R31). -/
def buffer (n : Nat) (l : List Byte) : Vector Byte n :=
  ⟨⟨l.take n ++ zeros (n - l.length)⟩, by
    simp only [zeros, List.size_toArray, List.length_append, List.length_take, List.length_replicate]
    omega⟩

end Sys2Proof.Machine
end

