-- ==== Sys2Proof/Machine/Numbers.lean ====
section
/-! DEFINITION. The integer notation of rules R9 and R10, used by every command: conversions between bit
vectors and integers, truncated division, shifts and leading zeros. -/

namespace Sys2Proof.Machine

/-- Rule R9: `uint(v)`. -/
abbrev uint {n : Nat} (v : BitVec n) : Nat := v.toNat

/-- Rule R9: `sint(v)`, the two's complement value. -/
abbrev sint {n : Nat} (v : BitVec n) : Int := v.toInt

/-- Rule R9: `wrap_N(n)`, the `N`-bit vector `w` with `uint(w) = n mod 2^N`, for every integer `n`. -/
def wrap (N : Nat) (n : Int) : BitVec N := BitVec.ofNat N (n % 2 ^ N).toNat

/-- Rule R9: `sext_N(v)`. -/
def sext {n : Nat} (N : Nat) (v : BitVec n) : BitVec N := wrap N (sint v)

/-- Rule R9: `zext_N(v)`. -/
def zext {n : Nat} (N : Nat) (v : BitVec n) : BitVec N := wrap N (uint v)

/-- Rule R10: `sgn(n)`. -/
def sgn (n : Int) : Int := if n < 0 then -1 else if n = 0 then 0 else 1

/-- Rule R10: `tdiv(a, b)`, division truncated toward zero, for `b ≠ 0`. -/
def tdiv (a b : Int) : Int := sgn a * sgn b * ((a.natAbs / b.natAbs : Nat) : Int)

/-- Rule R10: `n >> k`, which for every sign is `n fdiv 2^k` (Lean's `/` with a positive divisor rounds
toward minus infinity). -/
def shiftRight (n : Int) (k : Nat) : Int := n / 2 ^ k

/-- Rule R10: `bitlen(n)`. -/
def bitlen (n : Nat) : Nat := if n = 0 then 0 else Nat.log2 n + 1

/-- Rule R10: `clz_W(n)`, the leading-zero count in a `W`-bit word. -/
def clz (W n : Nat) : Nat := W - bitlen n

/-- Rule R10: `bit(n, k)`. -/
def bitAt (n k : Nat) : Nat := (n >>> k) % 2

end Sys2Proof.Machine
end

