-- ==== Sys2Proof/Machine/State.lean ====
section
/-! DEFINITION. The machine's state as plain data (rule R20), the error kinds (rule R211), the reasons a
step can stop, and the state after reset (rules R40, R240). -/

namespace Sys2Proof.Machine

/-- Rule R210: the six error kinds. An error is the outcome of a command, reported in `ERR`; it does not
stop the machine. -/
inductive ErrorKind where
  /-- Rule R212, raised by `CONS` and `QUO`. -/
  | divisionByZero
  /-- Rule R213, raised by `TOHEXP`. -/
  | invalidPrecision
  /-- Rule R214, raised by `FROMHEX`. -/
  | emptyInput
  /-- Rule R215, raised by `FROMHEX`. -/
  | formatError
  /-- Rule R216, raised by `FROMB64` and `FROMSM`. -/
  | invalidBase64
  /-- Rule R217, raised by a reserved command code. -/
  | illegalOp
deriving DecidableEq, Repr

/-- The machine never stops with a fault: rule R243, "The core does not halt, exit or stop", and rule R221
makes every error a completed command that writes `ERR`. So this type has no constructor. -/
inductive Fault where
deriving DecidableEq, Repr

/-- Why a step has no meaning. -/
inductive Refusal where
  /-- Raised by an arm of `exec` whose instruction has no meaning yet (safe). No arm does. -/
  | notModelled (mnemonic : String)
  /-- Raised by the host action `WR` or `CMD` while `BUSY` is 1, and by the pin-level machine for a write port
  or `cmd_valid` while a command runs (safe). Rule R245: "a model gives such an action no meaning (it refuses
  it)". No state that a run from reset reaches has `BUSY` 1 between two steps (rule R34). -/
  | hostActionWhileBusy
deriving DecidableEq, Repr

/-- The architectural state of rule R20, one field per register, and two fields that are the MODEL's own
(DESIGN CHOICE, log entries 1 and 2): the host's actions still to come, and what the host has read. -/
structure State where
  /-- `A`, rule R21: first operand. -/
  a : Word
  /-- `B`, rule R22: second operand. -/
  b : Word
  /-- `HS`, rule R23: `highStart` of the explicit hex precision. -/
  hs : BitVec 8
  /-- `LE`, rule R23: `lowEnd` of the explicit hex precision. -/
  le : BitVec 8
  /-- `IB`, rule R24: input byte buffer. -/
  ib : Vector Byte 17
  /-- `IT`, rule R25: input text buffer. -/
  it : Vector Byte 127
  /-- `ITLEN`, rule R25: number of valid bytes of `IT`. -/
  itlen : BitVec 7
  /-- `R`, rule R27: raw Q64.64 result. -/
  r : Word
  /-- `IR`, rule R28: integer result of `MULINT`. -/
  ir : IWord
  /-- `SR`, rule R29: small result. -/
  sr : BitVec 2
  /-- `OB`, rule R30: output byte buffer. -/
  ob : Vector Byte 17
  /-- `OBLEN`, rule R30: number of valid bytes of `OB`. -/
  oblen : BitVec 5
  /-- `OT`, rule R31: output text buffer. -/
  ot : Vector Byte 34
  /-- `OTLEN`, rule R31: number of valid bytes of `OT`. -/
  otlen : BitVec 6
  /-- `CMD`, rule R32: the code most recently issued. -/
  cmd : BitVec 8
  /-- `ERR`, rule R33: error kind of the most recently completed command. -/
  err : BitVec 3
  /-- `BUSY`, rule R34: 1 from the issue of a command to its completion. -/
  busy : BitVec 1
  /-- MODEL'S OWN (log entry 1): the host's actions still to come, next first (rules R36, R60). -/
  script : List HostAction
  /-- MODEL'S OWN (log entry 2): what the host's `RD` actions returned, oldest first (rule R51). -/
  seen : List ReadData
deriving DecidableEq, Repr

/-- Rules R40, R240: "After reset every register of rule R20 is zero". The host has asked nothing yet and
read nothing yet (log entries 1 and 2). -/
def State.reset : State where
  a := 0
  b := 0
  hs := 0
  le := 0
  ib := Vector.replicate 17 0
  it := Vector.replicate 127 0
  itlen := 0
  r := 0
  ir := 0
  sr := 0
  ob := Vector.replicate 17 0
  oblen := 0
  ot := Vector.replicate 34 0
  otlen := 0
  cmd := 0
  err := 0
  busy := 0
  script := []
  seen := []

end Sys2Proof.Machine
end

