-- ==== Sys2Proof/Machine/Flags.lean ====
section
/-! DEFINITION. The core has no flags (rule R37). What stands in their place: the small results of `SR`
(rule R29) and the codes of `ERR` (rule R211). -/

namespace Sys2Proof.Machine

/-- Rules R29, R124, R125: the sign of an exact integer as a 2-bit two's complement value, `wrap_2(sgn(n))`. -/
def signCode (n : Int) : BitVec 2 := wrap 2 (sgn n)

/-- Rules R29, R126, R127: "0 (false) or 1 (true)". -/
def truthCode (p : Bool) : BitVec 2 := if p then 0b01#2 else 0b00#2

/-- Rule R211: the code of an error kind. -/
def ErrorKind.code : ErrorKind → BitVec 3
  | .divisionByZero => 1
  | .invalidPrecision => 2
  | .emptyInput => 3
  | .formatError => 4
  | .invalidBase64 => 5
  | .illegalOp => 6

end Sys2Proof.Machine
end

