-- ==== Sys2Proof/Machine/Operands.lean ====
section
/-! DEFINITION. How a command reads its operand registers: the derived values of a raw value (rules R14,
R21, R22), the precision pair (rule R23) and the input text (rule R25). -/

namespace Sys2Proof.Machine

/-- Rule R14: `raw(v) = sint(v)`. -/
abbrev raw (v : Word) : Int := sint v

/-- Rule R14: `neg(v)`. -/
def isNegative (v : Word) : Bool := decide (raw v < 0)

/-- Rule R14: `mag(v) = |raw(v)|`, in `0 .. 2^127`. -/
def mag (v : Word) : Nat := (raw v).natAbs

/-- Rule R14: `hi(v)`, the integer part of the magnitude. -/
def hiPart (v : Word) : Nat := mag v >>> 64

/-- Rule R14: `lo(v)`, the fractional part of the magnitude. -/
def loPart (v : Word) : Nat := mag v % 2 ^ 64

/-- Rules R2, R14: `real(v) = raw(v) / 2^64`, the represented rational number. -/
def realOf (v : Word) : Rat := (raw v : Rat) / 2 ^ 64

/-- Rule R15: `ZERO`. -/
def ZERO : Word := 0x0000000000000000_0000000000000000#128

/-- Rule R15: `ONE`, the raw value `2^64`. -/
def ONE : Word := 0x0000000000000001_0000000000000000#128

/-- Rule R25: the input text `IT[0 : uint(ITLEN)]`; bytes at index `uint(ITLEN)` and above are ignored. -/
def State.inputText (s : State) : List Byte := s.it.toList.take (uint s.itlen)

/-- Rules R30, R31: the output byte string `OB[0 : uint(OBLEN)]`. -/
def State.outputBytes (s : State) : List Byte := s.ob.toList.take (uint s.oblen)

/-- Rule R31: the output text `OT[0 : uint(OTLEN)]`. -/
def State.outputText (s : State) : List Byte := s.ot.toList.take (uint s.otlen)

/-- Rules R23, R178: the legal precision pairs. -/
def legalPrecision (hs le : Nat) : Bool := decide (1 ≤ hs ∧ hs ≤ 8 ∧ 10 ≤ le ∧ le ≤ 17)

end Sys2Proof.Machine
end

