-- ==== Sys2Proof/Machine/Ops.lean ====
section
/-! DEFINITION. The shared operations on the registers: issuing and completing a command, raising an error,
writing each result register, and the host's reads, writes and reset. -/

namespace Sys2Proof.Machine

/-- Rules R32, R244: `CMD <- c`, `BUSY <- 1`. -/
def State.issue (c : BitVec 8) (s : State) : State := { s with cmd := c, busy := 1 }

/-- Rules R13, R33, R244: a command that ends without an error sets `ERR <- 0`, and its completion
`BUSY <- 0`. This is also the only return from an error: rule R222, "The error is cleared by the completion
of the next command". -/
def State.succeed (s : State) : State := { s with err := 0, busy := 0 }

/-- TAKING AN ERROR. Rules R13, R221: a command that raises kind `k` completes with `ERR <- code(k)` and no
other change; "Nothing is saved, no mode changes, control goes nowhere". `BUSY <- 0` as for every completion
(rule R244). -/
def State.raise (k : ErrorKind) (s : State) : State := { s with err := k.code, busy := 0 }

/-- Rule R27: `R <- v`. -/
def State.writeR (v : Word) (s : State) : State := { s with r := v }

/-- Rule R28: `IR <- v`. -/
def State.writeIR (v : IWord) (s : State) : State := { s with ir := v }

/-- Rule R29: `SR <- v`. -/
def State.writeSR (v : BitVec 2) (s : State) : State := { s with sr := v }

/-- Rule R30: the byte string `l` into `OB`, 0 into the bytes after it, its length into `OBLEN`. -/
def State.writeBytes (l : List Byte) (s : State) : State :=
  { s with ob := buffer 17 l, oblen := BitVec.ofNat 5 l.length }

/-- Rule R31: the text `t` into `OT[0:n]`, "0 into every byte `OT[n : 34]`", `OTLEN <- n`. -/
def State.writeText (t : List Byte) (s : State) : State :=
  { s with ot := buffer 34 t, otlen := BitVec.ofNat 6 t.length }

/-- Rules R13, R55: how a command that can raise ends. It "either writes all its result registers or, when
it raises an error, none of them". -/
def finish {α : Type} (s : State) (write : α → State → State) :
    Except ErrorKind α → Host.Outcome State Fault Refusal
  | .ok v => .next (write v s).succeed
  | .error k => .next (s.raise k)

/-- Rule R51: `RD X`, "the current value of any register `X`". -/
def State.read (s : State) : Reg → ReadData
  | .a => .a s.a
  | .b => .b s.b
  | .hs => .hs s.hs
  | .le => .le s.le
  | .ib => .ib s.ib
  | .it => .it s.it
  | .itlen => .itlen s.itlen
  | .r => .r s.r
  | .ir => .ir s.ir
  | .sr => .sr s.sr
  | .ob => .ob s.ob
  | .oblen => .oblen s.oblen
  | .ot => .ot s.ot
  | .otlen => .otlen s.otlen
  | .cmd => .cmd s.cmd
  | .err => .err s.err
  | .busy => .busy s.busy

/-- Rule R51: `WR X, v`; "The whole register is written at once". -/
def State.applyWrite : OperandWrite → State → State
  | .a v, s => { s with a := v }
  | .b v, s => { s with b := v }
  | .hs v, s => { s with hs := v }
  | .le v, s => { s with le := v }
  | .ib v, s => { s with ib := v }
  | .it v, s => { s with it := v }
  | .itlen v, s => { s with itlen := v }

/-- Rules R40, R51, R240: `RESET`, "every register takes its reset value". The host's own record (its
actions to come and what it has read) is not a register and stays (DESIGN CHOICE, log entry 11). -/
def State.resetRegs (s : State) : State := { State.reset with script := s.script, seen := s.seen }

end Sys2Proof.Machine
end

