-- ==== Sys2Proof/Machine/Arith.lean ====
section
/-! DEFINITION. Unit 2, the 128-bit adder, comparator and raw divider: `ADD SUB QUO NEG CMP SIGN ISNEG
ISZERO` (rules R120 to R128). -/

namespace Sys2Proof.Machine

/-- `ADD`, rule R120: `R <- wrap_128(a + b)`. -/
def execAdd (s : State) : Host.Outcome State Fault Refusal :=
  .next (s.writeR (wrap 128 (raw s.a + raw s.b))).succeed

/-- `SUB`, rule R121: `R <- wrap_128(a - b)`. -/
def execSub (s : State) : Host.Outcome State Fault Refusal :=
  .next (s.writeR (wrap 128 (raw s.a - raw s.b))).succeed

/-- Rule R122: integer division of the raw values, truncated toward zero. -/
def rawQuotient (a b : Int) : Except ErrorKind Word :=
  if b = 0 then .error .divisionByZero else .ok (wrap 128 (tdiv a b))

/-- `QUO`, rule R122. -/
def execQuo (s : State) : Host.Outcome State Fault Refusal :=
  finish s State.writeR (rawQuotient (raw s.a) (raw s.b))

/-- `NEG`, rule R123: `R <- wrap_128(-a)`. -/
def execNeg (s : State) : Host.Outcome State Fault Refusal :=
  .next (s.writeR (wrap 128 (-raw s.a))).succeed

/-- `CMP`, rule R124: `SR <- wrap_2(sgn(a - b))`, of the exact difference. -/
def execCmp (s : State) : Host.Outcome State Fault Refusal :=
  .next (s.writeSR (signCode (raw s.a - raw s.b))).succeed

/-- `SIGN`, rule R125: `SR <- wrap_2(sgn(a))`. -/
def execSign (s : State) : Host.Outcome State Fault Refusal :=
  .next (s.writeSR (signCode (raw s.a))).succeed

/-- `ISNEG`, rule R126. -/
def execIsneg (s : State) : Host.Outcome State Fault Refusal :=
  .next (s.writeSR (truthCode (isNegative s.a))).succeed

/-- `ISZERO`, rule R127. -/
def execIszero (s : State) : Host.Outcome State Fault Refusal :=
  .next (s.writeSR (truthCode (decide (raw s.a = 0)))).succeed

end Sys2Proof.Machine
end

