-- ==== Sys2Proof/Machine/Bytes.lean ====
section
/-! DEFINITION. Unit 4, the byte codec: `TOB16 TOSM FROMSM` (rules R160 to R166). -/

namespace Sys2Proof.Machine

/-- Rule R165: the 17-byte sign-magnitude form of a raw value. -/
def sm17 (v : Word) : List Byte := (if isNegative v then 0x01#8 else 0x00#8) :: be 16 (mag v)

/-- Rule R166: the value of a 17-byte string whose sign byte is 0 or 1. -/
def unsm17 (s : List Byte) : Word :=
  let m : Int := beval (slice s 1 17)
  wrap 128 (if s.getD 0 0 = 0x01#8 then -m else m)

/-- `TOB16`, rule R160: the 128 bits of `A`, most significant byte first, then `OB[16] <- 0`. -/
def execTob16 (s : State) : Host.Outcome State Fault Refusal :=
  .next (s.writeBytes (be 16 (uint s.a))).succeed

/-- `TOSM`, rule R161: `OB <- sm17(A)`, `OBLEN <- 17`. -/
def execTosm (s : State) : Host.Outcome State Fault Refusal :=
  .next (s.writeBytes (sm17 s.a)).succeed

/-- Rules R162, R199 (check 5): a 17-byte string with a sign byte of 2 or more has no value. -/
def valueOfBytes (s : List Byte) : Except ErrorKind Word :=
  if (s.getD 0 0).toNat > 1 then .error .invalidBase64 else .ok (unsm17 s)

/-- `FROMSM`, rule R162. -/
def execFromsm (s : State) : Host.Outcome State Fault Refusal :=
  finish s State.writeR (valueOfBytes s.ib.toList)

end Sys2Proof.Machine
end

