-- ==== Sys2Proof/Machine/Base64.lean ====
section
/-! DEFINITION. Unit 6, the base64 codec: `TOB64 FROMB64` (rules R195 to R200). -/

namespace Sys2Proof.Machine

/-- Rule R196: `=`. -/
def chPad : Byte := 0x3D#8

/-- Rule R196: `b64char(k)`, the character of a 6-bit value. -/
def b64char (k : Nat) : Byte :=
  if k < 26 then BitVec.ofNat 8 (0x41 + k)
  else if k < 52 then BitVec.ofNat 8 (0x61 + (k - 26))
  else if k < 62 then BitVec.ofNat 8 (0x30 + (k - 52))
  else if k = 62 then 0x2B#8
  else 0x2F#8

/-- Rule R196: `b64val(c)`, "defined only for the 64 characters of the alphabet". -/
def b64val (c : Byte) : Option Nat :=
  if 0x41 ≤ c.toNat ∧ c.toNat ≤ 0x5A then some (c.toNat - 0x41)
  else if 0x61 ≤ c.toNat ∧ c.toNat ≤ 0x7A then some (c.toNat - 0x61 + 26)
  else if 0x30 ≤ c.toNat ∧ c.toNat ≤ 0x39 then some (c.toNat - 0x30 + 52)
  else if c.toNat = 0x2B then some 62
  else if c.toNat = 0x2F then some 63
  else none

/-- Rule R197: the first `k` of the groups of 6 bits of `n`, most significant first. -/
def b64groups : Nat → Nat → List Byte
  | 0, _ => []
  | k + 1, n => b64char ((n >>> (6 * k)) % 64) :: b64groups k n

/-- Rule R197: `b64enc17(s)`, the 136 bits and two zero bits in 23 groups, then one `=`. -/
def b64enc17 (s : List Byte) : List Byte := b64groups 23 (beval s * 4) ++ [chPad]

/-- `TOB64`, rule R198. -/
def execTob64 (s : State) : Host.Outcome State Fault Refusal :=
  .next (s.writeText (b64enc17 (sm17 s.a))).succeed

/-- Rule R199: the number whose base-64 digits are the characters of `t`, most significant first. -/
def b64number (t : List Byte) : Nat := t.foldl (fun acc c => acc * 64 + (b64val c).getD 0) 0

/-- Rule R199: the five checks of the strict decoder, then `unsm17` of the 17 decoded bytes. -/
def parseB64 (t : List Byte) : Except ErrorKind Word :=
  if t.length ≠ 24 then .error .invalidBase64
  else if t.getD 23 0 ≠ chPad then .error .invalidBase64
  else if (t.take 23).any (fun c => (b64val c).isNone) then .error .invalidBase64
  else if b64number (t.take 23) % 4 ≠ 0 then .error .invalidBase64
  else valueOfBytes (be 17 (b64number (t.take 23) >>> 2))

/-- `FROMB64`, rule R199. -/
def execFromb64 (s : State) : Host.Outcome State Fault Refusal :=
  finish s State.writeR (parseB64 s.inputText)

end Sys2Proof.Machine
end

