-- ==== Sys2Proof/Machine/Construct.lean ====
section
/-! DEFINITION. Unit 1, the long-division engine: `CONS` (rules R100 to R109). -/

namespace Sys2Proof.Machine

/-- Rule R102, the 64 iterations (steps 3 and 4), with `k` of them left: halve the divisor, compare,
subtract, append a bit to `lo`; when the remainder reaches zero the unfilled low bits are zero. -/
def fracdivLoop : (k D Rm lo : Nat) → Nat
  | 0, _, _, lo => lo
  | k + 1, D, Rm, lo =>
    let half := D >>> 1
    let fits := decide (half ≤ Rm)
    let lo' := if fits then (lo <<< 1) + 1 else lo <<< 1
    let Rm' := if fits then Rm - half else Rm
    if Rm' = 0 then lo' <<< k else fracdivLoop k half Rm' lo'

/-- Rule R102: `fracdiv(part, d)`, both operands normalised by the leading zeros of `d` in an `NW`-bit word. -/
def fracdiv (part d : Nat) : Nat :=
  fracdivLoop 64 (d <<< clz Config.NW d) (part <<< clz Config.NW d) 0

/-- Rule R100, steps 2 to 5: the 128-bit magnitude `m` assembled from `hi` (its low 64 bits) and `lo`. -/
def consMagnitude (ax ay : Nat) : Nat := ax / ay % 2 ^ 64 * 2 ^ 64 + fracdiv (ax % ay) ay

/-- Rule R100: rational construction of `x / y`. -/
def construct (x y : Int) : Except ErrorKind Word :=
  if y = 0 then .error .divisionByZero
  else
    let negative := xor (decide (x < 0)) (decide (y < 0))
    let m : Int := consMagnitude x.natAbs y.natAbs
    .ok (wrap 128 (if negative then -m else m))

/-- `CONS`, rule R100. -/
def execCons (s : State) : Host.Outcome State Fault Refusal :=
  finish s State.writeR (construct (sint s.a) (sint s.b))

end Sys2Proof.Machine
end

