-- ==== Sys2Proof/Machine/Hex.lean ====
section
/-! DEFINITION. Unit 5, the hex codec: `TOHEX TOHEXP FROMHEX` (rules R175 to R181). -/

namespace Sys2Proof.Machine

/-- Rule R176: `-`. -/
def chMinus : Byte := 0x2D#8

/-- Rule R176: `.`. -/
def chPoint : Byte := 0x2E#8

/-- Rule R176: the upper case digit of a value 0 to 15, as the formatters write it. -/
def hexChar (n : Nat) : Byte := if n < 10 then BitVec.ofNat 8 (0x30 + n) else BitVec.ofNat 8 (0x41 + (n - 10))

/-- Rule R176: the value of a hex digit, upper or lower case; none for any other byte. -/
def hexVal (c : Byte) : Option Nat :=
  if 0x30 ≤ c.toNat ∧ c.toNat ≤ 0x39 then some (c.toNat - 0x30)
  else if 0x41 ≤ c.toNat ∧ c.toNat ≤ 0x46 then some (c.toNat - 0x41 + 10)
  else if 0x61 ≤ c.toNat ∧ c.toNat ≤ 0x66 then some (c.toNat - 0x61 + 10)
  else none

/-- Rule R176: tab, line feed, vertical tab, form feed, carriage return, space. -/
def isSpace (c : Byte) : Bool := decide (0x09 ≤ c.toNat ∧ c.toNat ≤ 0x0D) || decide (c.toNat = 0x20)

/-- Rule R177: `hexenc(s)`, two upper case digits a byte, the high nibble first. -/
def hexenc : List Byte → List Byte
  | [] => []
  | c :: rest => hexChar (c.toNat >>> 4) :: hexChar (c.toNat % 16) :: hexenc rest

/-- Rule R177: `hexdec(t)`, for a text of even length made of hex digits. -/
def hexdec : List Byte → List Byte
  | h :: l :: rest => BitVec.ofNat 8 (16 * (hexVal h).getD 0 + (hexVal l).getD 0) :: hexdec rest
  | [_] => []
  | [] => []

/-- Rule R178: the text of a 17-byte form at the precision `(hs, le)`. -/
def hexText (s : List Byte) (hs le : Nat) : List Byte :=
  (if s.getD 0 0 = 0x01#8 then [chMinus] else []) ++ hexenc (slice s hs 9) ++ [chPoint] ++ hexenc (slice s 9 le)

/-- Rule R181: the least index in 1 .. 8 of a byte that is not 0, or 8. -/
def autoHigh (s : List Byte) : Nat :=
  ([1, 2, 3, 4, 5, 6, 7, 8].find? fun i => s.getD i 0 != 0).getD 8

/-- Rule R181: one more than the greatest index in 9 .. 16 of a byte that is not 0, or 10. -/
def autoLow (s : List Byte) : Nat :=
  match [16, 15, 14, 13, 12, 11, 10, 9].find? fun j => s.getD j 0 != 0 with
  | some j => j + 1
  | none => 10

/-- Rule R178: the precision pair is checked "before anything else and whatever `A` is". -/
def preciseText (v : Word) (hs le : Nat) : Except ErrorKind (List Byte) :=
  if legalPrecision hs le then .ok (hexText (sm17 v) hs le) else .error .invalidPrecision

/-- `TOHEXP`, rule R178. -/
def execTohexp (s : State) : Host.Outcome State Fault Refusal :=
  finish s State.writeText (preciseText s.a (uint s.hs) (uint s.le))

/-- `TOHEX`, rule R179: the pair is `autoprec(sm17(A))`, always legal. -/
def execTohex (s : State) : Host.Outcome State Fault Refusal :=
  .next (s.writeText (hexText (sm17 s.a) (autoHigh (sm17 s.a)) (autoLow (sm17 s.a)))).succeed

/-- Rule R180, checks 3 to 5 on one half: not empty, hex digits only, "odd-length hex is left-padded with a
zero nibble", at most 16 digits after padding. -/
def hexHalf (x : List Byte) : Except ErrorKind (List Byte) :=
  if x.length = 0 then .error .formatError
  else if x.any (fun c => (hexVal c).isNone) then .error .formatError
  else
    let padded := if x.length % 2 = 1 then 0x30#8 :: x else x
    if padded.length > 16 then .error .formatError else .ok (hexdec padded)

/-- Rule R180, after the sign: check 2, "split on exactly one `.`", then both halves, the high one
right-aligned and the low one left-aligned into the 17-byte form. -/
def parseUnsigned (negative : Bool) (t : List Byte) : Except ErrorKind Word :=
  if t.count chPoint ≠ 1 then .error .formatError
  else
    match hexHalf (t.takeWhile (· != chPoint)), hexHalf ((t.dropWhile (· != chPoint)).drop 1) with
    | .ok hb, .ok lb =>
      .ok (unsm17 ((if negative then 0x01#8 else 0x00#8) ::
        (zeros (8 - hb.length) ++ hb ++ lb ++ zeros (8 - lb.length))))
    | .error k, _ => .error k
    | .ok _, .error k => .error k

/-- Rule R180: the value of a hex text, checks in the order of the rule (rule R220). -/
def parseHex (t : List Byte) : Except ErrorKind Word :=
  if t.all isSpace then .error .emptyInput
  else
    match t with
    | [] => .error .emptyInput
    | c :: rest => if c = chMinus then parseUnsigned true rest else parseUnsigned false (c :: rest)

/-- `FROMHEX`, rule R180. -/
def execFromhex (s : State) : Host.Outcome State Fault Refusal :=
  finish s State.writeR (parseHex s.inputText)

end Sys2Proof.Machine
end

