-- ==== Sys2Proof/Machine/Mul.lean ====
section
/-! DEFINITION. Unit 3, the Q64.64 multiplier: `MUL` and `MULINT` (rules R140 to R151). -/

namespace Sys2Proof.Machine

/-- Rules R140, R143: the exact product shifted right by 64, rounded toward minus infinity. -/
def scaledProduct (a b : Int) : Int := shiftRight (a * b) 64

/-- `MUL`, rule R140: `R <- wrap_128((a * b) >> 64)`. -/
def execMul (s : State) : Host.Outcome State Fault Refusal :=
  .next (s.writeR (wrap 128 (scaledProduct (raw s.a) (raw s.b)))).succeed

/-- Rule R147, the accumulation over the first `n` iterations: the bit of `lo` of weight `2^-i` selects
`D >> i`. -/
def hydrateSum (lo D : Nat) : Nat → Nat
  | 0 => 0
  | n + 1 =>
    hydrateSum lo D n + if bitAt lo (64 - (n + 1)) = 1 then D >>> (n + 1) else 0

/-- Rule R147: `hydrate(lo, d)`, with the half-up rounding on the bit below the result (and, with no such
bit, none: decision D20, unreachable with `NW = 192`). -/
def hydrate (lo d : Nat) : Nat :=
  let lz := clz Config.NW d
  let acc := hydrateSum lo (d <<< lz) 64
  if lz = 0 then acc else (acc >>> lz) + bitAt acc (lz - 1)

/-- Rule R146: the product of the value `v` and the integer `y`, as an integer. -/
def integerProduct (v : Word) (y : Int) : Int :=
  if y = 0 then 0
  else if y = 1 then sgn (raw v) * hiPart v
  else
    let negative := xor (isNegative v) (decide (y < 0))
    let n : Int := (hiPart v * y.natAbs + hydrate (loPart v) y.natAbs : Nat)
    if negative then -n else n

/-- `MULINT`, rule R146: `IR <- wrap_192(n)`. -/
def execMulint (s : State) : Host.Outcome State Fault Refusal :=
  .next (s.writeIR (wrap 192 (integerProduct s.a (sint s.b)))).succeed

end Sys2Proof.Machine
end

