-- ==== Sys2Proof/Machine/Dispatch.lean ====
section
/-! DEFINITION. The dispatch of a decoded command to its meaning (rule R72), one arm per command. -/

namespace Sys2Proof.Machine

def exec (i : Instr) (s : State) : Host.Outcome State Fault Refusal :=
  match i with
  -- unit 1, division engine
  | .cons => Sys2Proof.Machine.execCons s
  -- unit 2, adder and comparator
  | .add => Sys2Proof.Machine.execAdd s
  | .sub => Sys2Proof.Machine.execSub s
  | .quo => Sys2Proof.Machine.execQuo s
  | .neg => Sys2Proof.Machine.execNeg s
  | .cmp => Sys2Proof.Machine.execCmp s
  | .sign => Sys2Proof.Machine.execSign s
  | .isneg => Sys2Proof.Machine.execIsneg s
  | .iszero => Sys2Proof.Machine.execIszero s
  -- unit 3, multiplier
  | .mul => Sys2Proof.Machine.execMul s
  | .mulint => Sys2Proof.Machine.execMulint s
  -- unit 4, byte codec
  | .tob16 => Sys2Proof.Machine.execTob16 s
  | .tosm => Sys2Proof.Machine.execTosm s
  | .fromsm => Sys2Proof.Machine.execFromsm s
  -- unit 5, hex codec
  | .tohex => Sys2Proof.Machine.execTohex s
  | .tohexp => Sys2Proof.Machine.execTohexp s
  | .fromhex => Sys2Proof.Machine.execFromhex s
  -- unit 6, base64 codec
  | .tob64 => Sys2Proof.Machine.execTob64 s
  | .fromb64 => Sys2Proof.Machine.execFromb64 s

end Sys2Proof.Machine
end

