-- ==== Sys2Proof/Machine/HostActions.lean ====
section
/-! DEFINITION. The four host actions on the core (rules R51 to R55, R60): write, read, command, reset. -/

namespace Sys2Proof.Machine

/-- Rules R72, R73: the execution of the issued code `c`, "if `c` is one of the 19 codes, run the rule named
in the last column"; a reserved code raises `IllegalOp` and changes nothing else. -/
def runCode (c : BitVec 8) (s : State) : Host.Outcome State Fault Refusal :=
  match decode c with
  | .ok i => exec i s
  | .error (.reserved _) => .next (s.raise .illegalOp)

/-- Rules R51, R55, R245: one host action, atomic. `CMD c` is issue and completion in one step (DEDUCED, log
entry 3). While `BUSY` is 1 a write and a command are refused; `RESET` (rule R241) and `RD` (rule R53, "in any
state"; DEDUCED, log entry 5) are allowed. -/
def hostAct : HostAction → State → Host.Outcome State Fault Refusal
  | .wr w, s => if s.busy = 1 then .refused .hostActionWhileBusy else .next (s.applyWrite w)
  | .rd x, s => .next { s with seen := s.seen ++ [s.read x] }
  | .cmd c, s => if s.busy = 1 then .refused .hostActionWhileBusy else runCode c (s.issue c)
  | .reset, s => .next s.resetRegs

/-- Rule R60: host actions one after another, each complete before the next begins. -/
def hostActs : List HostAction → State → Host.Outcome State Fault Refusal
  | [], s => .next s
  | act :: rest, s =>
    match hostAct act s with
    | .next t => hostActs rest t
    | .fault k => .fault k
    | .refused k => .refused k

/-- Rules R36, R60, R243: one step of the core. It takes the host's next action (DESIGN CHOICE, log entry 1); with
none, the core "is idle and stays so until the next host action" (DESIGN CHOICE, log entry 8). -/
def stepHost (s : State) : Host.Outcome State Fault Refusal :=
  match s.script with
  | [] => .next s
  | act :: rest => hostAct act { s with script := rest }

/-- A command code placed as the host's very next action (rule R63: "A command code is taken from the `CMD`
action itself"). The host issues only while `BUSY` is 0 (rule R245), so `BUSY` is set to 0 (DESIGN CHOICE, log entry 6). -/
def State.withNextCode (s : State) (c : BitVec 8) : State :=
  { s with script := .cmd c :: s.script, busy := 0 }

end Sys2Proof.Machine
end

