-- ==== Sys2Proof/Machine/Step.lean ====
section
/-! DEFINITION. One step of the machine, and how the host places a command to run next. -/

namespace Sys2Proof.Machine

/-- One step: the host's next action on the core (`stepHost`). -/
def step (s : State) : Host.Outcome State Fault Refusal := stepHost s

/-- `s` with the command of `nbits` bits whose value is `w` as the host's very next action. Every command is
one byte (rule R70), so the bits above bit 7 of `w` are 0 for every row of the table. -/
def State.withFetchWord (s : State) (nbits w : Nat) : State :=
  s.withNextCode (BitVec.ofNat 8 (w % 2 ^ nbits))

end Sys2Proof.Machine
end

