-- ==== Sys2Proof/Machine/Pins.lean ====
section
/-! DEFINITION. The pin-level handshake of rule R244: the same core, one clock edge at a time, with the
interval between the issue and the completion of a command (rules R241, R245) in which `BUSY` is 1. -/

namespace Sys2Proof.Machine

/-- Rule R244, the input signals at one active clock edge: `rst`, the operand write ports with their enables
(`none` is a port whose enable is low), `cmd_valid` and `cmd[7:0]`. -/
structure PinsIn where
  rst      : Bool
  wrA      : Option Word
  wrB      : Option Word
  wrHS     : Option (BitVec 8)
  wrLE     : Option (BitVec 8)
  wrIB     : Option (Vector Byte 17)
  wrIT     : Option (Vector Byte 127)
  wrITLEN  : Option (BitVec 7)
  cmdValid : Bool
  cmd      : BitVec 8
deriving DecidableEq, Repr

/-- The clocked core: the architectural registers and the `done` signal (rule R244), and two fields of the
MODEL's own (log entry 4): how many clocks the running command still needs after the next one, and how many
commands have been issued (the argument of the free latency). -/
structure Clocked where
  core   : State
  done   : Bool
  left   : Nat
  issued : Nat
deriving DecidableEq, Repr

/-- The core right after reset (rule R240); `done` is low (DESIGN CHOICE, log entry 12). -/
def Clocked.reset : Clocked := { core := State.reset, done := false, left := 0, issued := 0 }

/-- The writes asked for at one edge, as `WR` actions. The ports are of different registers, so their order
does not matter. -/
def PinsIn.writes (p : PinsIn) : List OperandWrite :=
  (p.wrA.map OperandWrite.a).toList ++ (p.wrB.map OperandWrite.b).toList ++
  (p.wrHS.map OperandWrite.hs).toList ++ (p.wrLE.map OperandWrite.le).toList ++
  (p.wrIB.map OperandWrite.ib).toList ++ (p.wrIT.map OperandWrite.it).toList ++
  (p.wrITLEN.map OperandWrite.itlen).toList

/-- An edge at which the host asks for nothing. -/
def PinsIn.quiet : PinsIn where
  rst := false
  wrA := none
  wrB := none
  wrHS := none
  wrLE := none
  wrIB := none
  wrIT := none
  wrITLEN := none
  cmdValid := false
  cmd := 0

/-- `cmd_valid` with the code on `cmd`, and nothing else. -/
def PinsIn.command (c : BitVec 8) : PinsIn := { PinsIn.quiet with cmdValid := true, cmd := c }

/-- `rst`, and nothing else. -/
def PinsIn.resetting : PinsIn := { PinsIn.quiet with rst := true }

/-- Rules R241, R244, R245: one active clock edge. `rst` wins over everything; while a command runs the host
may ask for nothing else; a command completes one clock after its `cmd_valid`, or later by the free
`Config.extraClocks`, with `done` high for that clock. Rules R54, R245, R248: an operand may not be written
in the clock of `cmd_valid` either; several ports may write in one clock (DEDUCED, log entry 7). `done` is low in a
clock of `rst` (DESIGN CHOICE, log entry 12). -/
def clock (p : PinsIn) (m : Clocked) : Host.Outcome Clocked Fault Refusal :=
  if p.rst then .next { m with core := m.core.resetRegs, done := false, left := 0 }
  else if m.core.busy = 1 then
    if p.cmdValid = true ∨ p.writes ≠ [] then .refused .hostActionWhileBusy
    else
      match m.left with
      | k + 1 => .next { m with done := false, left := k }
      | 0 =>
        match runCode m.core.cmd m.core with
        | .next t => .next { m with core := t, done := true }
        | .fault k => .fault k
        | .refused k => .refused k
  else if p.cmdValid then
    if p.writes ≠ [] then .refused .hostActionWhileBusy
    else
      .next { m with core := m.core.issue p.cmd, done := false,
                     left := Config.extraClocks m.issued, issued := m.issued + 1 }
  else .next { m with core := p.writes.foldl (fun s w => s.applyWrite w) m.core, done := false }

/-- Edges one after another. -/
def clocks : List PinsIn → Clocked → Host.Outcome Clocked Fault Refusal
  | [], m => .next m
  | p :: rest, m =>
    match clock p m with
    | .next n => clocks rest n
    | .fault k => .fault k
    | .refused k => .refused k

/-- Rule R244: the register read ports, "one per register, full width, continuously driven with the
register's value"; `busy` and `err[2:0]` are the ports of `BUSY` and `ERR`. -/
def Clocked.readPort (m : Clocked) (x : Reg) : ReadData := m.core.read x

end Sys2Proof.Machine
end

