-- ==== Sys2Proof/Machine/Script.lean ====
section
/-! DEFINITION. The host script lines and pseudo-actions of rules R74 and R75, expanded into host actions,
and the encoding of a script. -/

namespace Sys2Proof.Machine

/-- Rules R51, R74: the write of the value `v` to register `x`; none where `x` has no write port or `v` is
not of its width. A text is not a single write (see `writesOf`). -/
def writeOf (x : Reg) (v : ScriptValue) : Option OperandWrite :=
  if !(ScriptLine.wr x v).wf then none
  else
    match x, v with
    | .a, .num n => some (.a (BitVec.ofNat 128 n))
    | .b, .num n => some (.b (BitVec.ofNat 128 n))
    | .hs, .num n => some (.hs (BitVec.ofNat 8 n))
    | .le, .num n => some (.le (BitVec.ofNat 8 n))
    | .itlen, .num n => some (.itlen (BitVec.ofNat 7 n))
    | .ib, .bytes l => some (.ib (buffer 17 l))
    | .it, .bytes l => some (.it (buffer 127 l))
    | _, _ => none

/-- Rule R74: `WR IT, "text"` "also sets `ITLEN` to the length of the text and fills the rest of `IT` with
zero bytes; it stands for the two actions". Every other `WR` line is one action. -/
def writesOf (x : Reg) (v : ScriptValue) : Option (List HostAction) :=
  match v with
  | .text t =>
    if (ScriptLine.wr x (.text t)).wf then
      some [.wr (.it (buffer 127 t)), .wr (.itlen (BitVec.ofNat 7 t.length))]
    else none
  | .num n => (writeOf x (.num n)).map fun w => [.wr w]
  | .bytes l => (writeOf x (.bytes l)).map fun w => [.wr w]

/-- Rule R75, `MV`: the write that copies a result just read into an operand register of the same width. -/
def copyOf (dst : Reg) (d : ReadData) : Option OperandWrite :=
  match dst, d with
  | .a, .r v => some (.a v)
  | .b, .r v => some (.b v)
  | .ib, .ob v => some (.ib v)
  | _, _ => none

/-- Rules R74, R75: the host actions a script line stands for, in the state `s` in which the host reaches it
(a pseudo-action that reads uses the value it reads there); none for an ill-formed line. -/
def ScriptLine.expand (s : State) : ScriptLine → Option (List HostAction)
  | .wr x v => writesOf x v
  | .rd x => some [.rd x]
  | .cmd i => some [.cmd (encode i)]
  | .code c => some [.cmd c]
  | .reset => some [.reset]
  | .mv dst src => (copyOf dst (s.read src)).map fun w => [.rd src, .wr w]
  | .mvt => some [.rd .ot, .rd .otlen, .wr (.it (buffer 127 s.outputText)), .wr (.itlen (s.otlen.setWidth 7))]
  | .mvb => some [.rd .ob, .wr (.ib s.ob)]
  | .ldzero x => writesOf x (.num 0)
  | .ldone x => if x.width = 128 then writesOf x (.num (2 ^ 64)) else none

/-- Rule R74: "The encoding of a script is the sequence of command codes it issues; `WR` and `RD` have no
encoding". -/
def scriptCodes : List ScriptLine → List Byte
  | [] => []
  | .cmd i :: rest => encode i :: scriptCodes rest
  | .code c :: rest => c :: scriptCodes rest
  | .wr _ _ :: rest | .rd _ :: rest | .reset :: rest | .mv _ _ :: rest | .mvt :: rest | .mvb :: rest
  | .ldzero _ :: rest | .ldone _ :: rest => scriptCodes rest

/-- A script run line by line: each line is expanded in the state the lines before it left (rules R60, R74,
R75); none for an ill-formed line. -/
def runScript : List ScriptLine → State → Option (Host.Outcome State Fault Refusal)
  | [], s => some (.next s)
  | line :: rest, s =>
    match line.expand s with
    | none => none
    | some acts =>
      match hostActs acts s with
      | .next t => runScript rest t
      | .fault k => some (.fault k)
      | .refused k => some (.refused k)

end Sys2Proof.Machine
end

