-- ==== Sys2Proof/Safety.lean ====
section
/-! DEFINITION. What holds of every state between two steps of a run (rules R29, R30, R31, R33, R34, R73,
R211), in the terms the statements use. -/

namespace Sys2Proof.Safety

open Sys2Proof.Machine

/-- Rules R30, R160, R161: `OBLEN` is 0, 16 or 17; the bytes after it are 0; a 17-byte form has a sign byte
0 or 1. -/
def OutputBytesOk (s : State) : Prop :=
  (s.oblen = 0 ∨ s.oblen = 16 ∨ s.oblen = 17) ∧
  (∀ i : Fin 17, s.oblen.toNat ≤ i.val → s.ob[i] = 0) ∧
  (s.oblen = 17 → (s.ob[0]).toNat ≤ 1)

/-- Rules R31, R175, R178, R198: `OTLEN` is 0 or between 5 and 34; the bytes of `OT` from `OTLEN` on are 0,
the bytes before it are ASCII text. -/
def OutputTextOk (s : State) : Prop :=
  (s.otlen = 0 ∨ (5 ≤ s.otlen.toNat ∧ s.otlen.toNat ≤ 34)) ∧
  (∀ i : Fin 34, s.otlen.toNat ≤ i.val → s.ot[i] = 0) ∧
  (∀ i : Fin 34, i.val < s.otlen.toNat → 0x20 < (s.ot[i]).toNat ∧ (s.ot[i]).toNat < 0x80)

/-- Rules R33, R211: the error kind of the last command is one that a command with the code in `CMD`
raises, and 7 is never there. -/
def ErrorMatchesCommand (s : State) : Prop :=
  (s.err = 0 ∨ (s.err = 1 ∧ (s.cmd = encode .cons ∨ s.cmd = encode .quo)) ∨
    (s.err = 2 ∧ s.cmd = encode .tohexp) ∨
    (s.err = 3 ∧ s.cmd = encode .fromhex) ∨ (s.err = 4 ∧ s.cmd = encode .fromhex) ∨
    (s.err = 5 ∧ (s.cmd = encode .fromb64 ∨ s.cmd = encode .fromsm)) ∨
    (s.err = 6 ∧ decode s.cmd = .error (.reserved s.cmd)))

/-- Rules R32, R73: a reserved code in `CMD` has been reported as `IllegalOp`, but for the reset value. -/
def ReservedReported (s : State) : Prop :=
  decode s.cmd = .error (.reserved s.cmd) → s.err = 6 ∨ (s.cmd = 0 ∧ s.err = 0)

/-- What every state between two steps satisfies. -/
structure Inv (s : State) : Prop where
  /-- Rule R34: between commands `BUSY` is 0. -/
  notBusy : s.busy = 0
  /-- Rule R29: "`0b10` is never written". -/
  smallResult : s.sr ≠ 0b10#2
  outputBytes : OutputBytesOk s
  outputText : OutputTextOk s
  errorMatches : ErrorMatchesCommand s
  reservedReported : ReservedReported s

/-! The spec's own tables and derived notions that the statements speak of. -/

/-- Rule R35, the table: the operand registers a command reads. -/
def commandReads : Instr → List Reg
  | .cons | .add | .sub | .mul | .quo | .cmp | .mulint => [.a, .b]
  | .neg | .sign | .isneg | .iszero | .tob16 | .tosm | .tohex | .tob64 => [.a]
  | .fromsm => [.ib]
  | .tohexp => [.a, .hs, .le]
  | .fromhex | .fromb64 => [.it, .itlen]

/-- Rule R35, the table: the result registers a command writes on success. -/
def commandWrites : Instr → List Reg
  | .cons | .add | .sub | .mul | .quo | .neg | .fromsm | .fromhex | .fromb64 => [.r]
  | .cmp | .sign | .isneg | .iszero => [.sr]
  | .mulint => [.ir]
  | .tob16 | .tosm => [.ob, .oblen]
  | .tohex | .tohexp | .tob64 => [.ot, .otlen]

/-- Rule R103: the fractional division run for all its iterations "unconditionally", with no early stop. -/
def longDivision : (k D Rm lo : Nat) → Nat
  | 0, _, _, lo => lo
  | k + 1, D, Rm, lo =>
    if D / 2 ≤ Rm then longDivision k (D / 2) (Rm - D / 2) (2 * lo + 1)
    else longDivision k (D / 2) Rm (2 * lo)

/-- Rule R175: "The text is a hexadecimal numeral of the magnitude". The number a text of hex digits denotes. -/
def hexNumeral (t : List Byte) : Nat := t.foldl (fun acc c => acc * 16 + (hexVal c).getD 0) 0

/-- Rule R180: `t` is a text the parser accepts, with this sign and these halves: `HI.LO` or `-HI.LO`, each half
1 to 16 hex digits (an odd half is padded to an even one of at most 16). -/
def IsHexText (negative : Bool) (H L t : List Byte) : Prop :=
  t = (if negative then [chMinus] else []) ++ H ++ [chPoint] ++ L ∧
  1 ≤ H.length ∧ H.length ≤ 16 ∧ 1 ≤ L.length ∧ L.length ≤ 16 ∧
  (∀ c ∈ H, (hexVal c).isSome = true) ∧ (∀ c ∈ L, (hexVal c).isSome = true)

/-- Rule R200: the set of base64 texts the decoder accepts. -/
def IsB64Text (t : List Byte) : Prop :=
  t.length = 24 ∧ t.getD 23 0 = chPad ∧ (∀ c ∈ t.take 23, (b64val c).isSome = true) ∧
  (b64val (t.getD 22 0)).getD 0 % 4 = 0 ∧ t.getD 0 0 = 0x41#8 ∧ (b64val (t.getD 1 0)).getD 0 < 32

end Sys2Proof.Safety
end

