-- ==== Sys2Proof/Certificates/Slice0/Obligations.lean ====
section
/-! DEFINITION. The statements for the provers, each with the rule of spec/ it formalises. A result that a command
writes is said by its number (`v.toNat`, rule R9's `uint`, or `v.toInt`, its `sint`), never by the model's own
function. A statement `exec i s = .next (s with the named fields changed)` is result, frame and completion in
one: every field not named is unchanged. -/

open Sys2Proof Sys2Proof.Machine Sys2Proof.Safety

/-! ## Reset, steps, decoding -/

/-- Rules R40, R240. -/
def Obligations.ResetZeroesEveryRegister : Prop :=
  (State.reset.a = 0 ∧ State.reset.b = 0 ∧ State.reset.hs = 0 ∧ State.reset.le = 0 ∧
    (∀ i : Fin 17, State.reset.ib[i] = 0) ∧ (∀ i : Fin 127, State.reset.it[i] = 0) ∧ State.reset.itlen = 0 ∧
    State.reset.r = 0 ∧ State.reset.ir = 0 ∧ State.reset.sr = 0 ∧ (∀ i : Fin 17, State.reset.ob[i] = 0) ∧
    State.reset.oblen = 0 ∧ (∀ i : Fin 34, State.reset.ot[i] = 0) ∧ State.reset.otlen = 0 ∧
    State.reset.cmd = 0 ∧ State.reset.err = 0 ∧ State.reset.busy = 0) ∧
  ∀ s : State, ∃ t, hostAct .reset s = .next t ∧ (∀ x : Reg, t.read x = State.reset.read x) ∧
    t.r = ZERO ∧ t.busy = 0

/-- Rules R60, R243. The host's list of actions to come is the model's own (log entry 1). That a step with no action to
come answers the same state is the model's choice (DESIGN CHOICE, log entry 8), and it is made for every state, also one
whose `BUSY` is 1, of which rule R243 ("when `BUSY = 0`") says nothing. -/
def Obligations.StepTakesTheNextHostAction : Prop :=
  (∀ s : State, s.script = [] → step s = .next s) ∧
  (∀ (s : State) (act : HostAction) (rest : List HostAction), s.script = act :: rest →
    step s = hostAct act { s with script := rest })

/-- Rule R72: the execution of `CMD c` for a `c` of the table. The issue writes `CMD` and sets `BUSY` (rule R244);
the second clause is the same for a command placed by `withFetchWord`. The list of actions and `withFetchWord` are
the model's own (log entries 1 and 6). -/
def Obligations.StepRunsTheDecodedCommand : Prop :=
  (∀ (s : State) (c : BitVec 8) (rest : List HostAction) (i : Instr),
    s.script = .cmd c :: rest → s.busy = 0 → decode c = .ok i → i.wf = true →
    step s = exec i { s with script := rest, cmd := c, busy := 1 }) ∧
  (∀ (s : State) (nbits w : Nat) (i : Instr), decodeTableWord nbits w = some i →
    step (s.withFetchWord nbits w) = exec i { s with cmd := BitVec.ofNat 8 w, busy := 1 })

/-- Rules R73, R217: the reserved ranges, what a reserved code does, and that there are 237 of them. -/
def Obligations.ReservedCodeRaisesIllegalOp : Prop :=
  (∀ (s : State) (c : BitVec 8), s.busy = 0 →
    (c.toNat ≤ 0x0F ∨ (0x11 ≤ c.toNat ∧ c.toNat ≤ 0x1F) ∨ (0x28 ≤ c.toNat ∧ c.toNat ≤ 0x2F) ∨
      (0x32 ≤ c.toNat ∧ c.toNat ≤ 0x3F) ∨ (0x43 ≤ c.toNat ∧ c.toNat ≤ 0x4F) ∨
      (0x53 ≤ c.toNat ∧ c.toNat ≤ 0x5F) ∨ 0x62 ≤ c.toNat) →
    hostAct (.cmd c) s = .next { s with cmd := c, err := 6 }) ∧
  ((List.range 256).filter fun n => match decode (BitVec.ofNat 8 n) with
    | .ok _ => false
    | .error _ => true).length = 237

/-- Rule R72, the code column: each command's code written out. -/
def Obligations.DecoderReadsTheTableCodes : Prop :=
  decode 0b00010000#8 = .ok .cons ∧ decode 0b00100000#8 = .ok .add ∧ decode 0b00100001#8 = .ok .sub ∧
  decode 0b00100010#8 = .ok .quo ∧ decode 0b00100011#8 = .ok .neg ∧ decode 0b00100100#8 = .ok .cmp ∧
  decode 0b00100101#8 = .ok .sign ∧ decode 0b00100110#8 = .ok .isneg ∧ decode 0b00100111#8 = .ok .iszero ∧
  decode 0b00110000#8 = .ok .mul ∧ decode 0b00110001#8 = .ok .mulint ∧ decode 0b01000000#8 = .ok .tob16 ∧
  decode 0b01000001#8 = .ok .tosm ∧ decode 0b01000010#8 = .ok .fromsm ∧ decode 0b01010000#8 = .ok .tohex ∧
  decode 0b01010001#8 = .ok .tohexp ∧ decode 0b01010010#8 = .ok .fromhex ∧ decode 0b01100000#8 = .ok .tob64 ∧
  decode 0b01100001#8 = .ok .fromb64

/-- Rules R70, R72: encoder and decoder agree, both ways, and a command is exactly one byte. -/
def Obligations.EncodeAndDecodeAgree : Prop :=
  (∀ i : Instr, i.wf = true → decode (encode i) = .ok i) ∧
  (∀ (c : BitVec 8) (i : Instr), decode c = .ok i → encode i = c) ∧
  (∀ (i : Instr) (rest : List Byte), decodeBytes (encode i :: rest) = some (.ok i, rest))

/-! ## Rules of the whole machine -/

/-- The invariant of every run (`Safety.Inv`: rules R29, R30, R31, R33, R34, R73, R211), kept by every step from
every state that has it. -/
def Obligations.StepKeepsRunInvariant : Prop :=
  ∀ s t : State, Inv s → step s = .next t → Inv t

/-- The invariant holds after reset. -/
def Obligations.ResetHasRunInvariant : Prop := Inv State.reset

/-- Rule R41: no command, successful or failed, legal or reserved, writes an operand register. -/
def Obligations.OperandRegistersAreNeverWritten : Prop :=
  ∀ (c : BitVec 8) (s t : State), hostAct (.cmd c) s = .next t →
    t.a = s.a ∧ t.b = s.b ∧ t.hs = s.hs ∧ t.le = s.le ∧ t.ib = s.ib ∧ t.it = s.it ∧ t.itlen = s.itlen

/-- Rules R35, R246: a command changes only the result registers its row of the table names, `ERR`, and `BUSY`
(which its completion clears, rule R244). The host's own fields (log entries 1 and 2) stay. -/
def Obligations.CommandWritesOnlyItsTableRow : Prop :=
  ∀ (i : Instr) (s t : State), exec i s = .next t →
    (∀ x : Reg, x ∉ commandWrites i → x ≠ .err → x ≠ .busy → t.read x = s.read x) ∧
    t.busy = 0 ∧ t.script = s.script ∧ t.seen = s.seen

/-- Rules R13, R221: a command that raises changes nothing but `ERR` (and `CMD`, which the issue wrote). -/
def Obligations.FailedCommandWritesOnlyErr : Prop :=
  ∀ (c : BitVec 8) (s t : State), s.busy = 0 → hostAct (.cmd c) s = .next t → t.err ≠ 0 →
    t = { s with cmd := c, err := t.err }

/-- Rules R225, R243, R34: from every idle state, whatever the host asks next, the step has a next state, idle
again; the core never halts. -/
def Obligations.IdleCoreAlwaysSteps : Prop :=
  ∀ s : State, s.busy = 0 → ∃ t, step s = .next t ∧ t.busy = 0

/-- Rules R211, R33, R222: the codes of the kinds, and which code each command may leave in `ERR`, whatever `ERR`
held before. -/
def Obligations.ErrorKindsByCommand : Prop :=
  (ErrorKind.divisionByZero.code = 1 ∧ ErrorKind.invalidPrecision.code = 2 ∧ ErrorKind.emptyInput.code = 3 ∧
    ErrorKind.formatError.code = 4 ∧ ErrorKind.invalidBase64.code = 5 ∧ ErrorKind.illegalOp.code = 6) ∧
  ∀ (c : BitVec 8) (s t : State), hostAct (.cmd c) s = .next t →
    t.cmd = c ∧ (∀ x : Reg, x.cls = .operand → t.read x = s.read x) ∧
    match decode c with
    | .error _ => t.err = 6
    | .ok .cons | .ok .quo => t.err = 0 ∨ t.err = 1
    | .ok .tohexp => t.err = 0 ∨ t.err = 2
    | .ok .fromhex => t.err = 0 ∨ t.err = 3 ∨ t.err = 4
    | .ok .fromb64 | .ok .fromsm => t.err = 0 ∨ t.err = 5
    | .ok .add | .ok .sub | .ok .neg | .ok .cmp | .ok .sign | .ok .isneg | .ok .iszero | .ok .mul | .ok .mulint
    | .ok .tob16 | .ok .tosm | .ok .tohex | .ok .tob64 => t.err = 0

/-- Rules R38, R110: two runs of one command that agree on the operand registers it reads end with the same `ERR`
and, when they succeed, the same result registers, whatever the other registers hold. -/
def Obligations.ResultDependsOnlyOnOperandsRead : Prop :=
  ∀ (i : Instr) (s₁ s₂ t₁ t₂ : State), (∀ x ∈ commandReads i, s₁.read x = s₂.read x) →
    exec i s₁ = .next t₁ → exec i s₂ = .next t₂ →
    t₁.err = t₂.err ∧ (t₁.err = 0 → ∀ x ∈ commandWrites i, t₁.read x = t₂.read x)

/-- Rules R51, R52: a write writes the whole named operand register and nothing else. -/
def Obligations.HostWriteWritesOneOperandRegister : Prop :=
  ∀ s : State, s.busy = 0 →
    (∀ v, hostAct (.wr (.a v)) s = .next { s with a := v }) ∧
    (∀ v, hostAct (.wr (.b v)) s = .next { s with b := v }) ∧
    (∀ v, hostAct (.wr (.hs v)) s = .next { s with hs := v }) ∧
    (∀ v, hostAct (.wr (.le v)) s = .next { s with le := v }) ∧
    (∀ v, hostAct (.wr (.ib v)) s = .next { s with ib := v }) ∧
    (∀ v, hostAct (.wr (.it v)) s = .next { s with it := v }) ∧
    (∀ v, hostAct (.wr (.itlen v)) s = .next { s with itlen := v })

/-- Rule R53: a read changes no register, returns the same value when repeated, and may be applied to every
register in any state. `seen` is the host's own record of what it read (log entry 2). The statement holds of every state:
that a read while `BUSY` is 1 answers the value the register then holds is the model's reading of rule R53 against rule
R245 (DEDUCED, log entry 5), and no host may rely on it. -/
def Obligations.HostReadReturnsTheRegister : Prop :=
  (∀ (s : State) (x : Reg), ∃ t, hostAct (.rd x) s = .next t ∧
    t = { s with seen := s.seen ++ [s.read x] } ∧ (∀ y : Reg, t.read y = s.read y) ∧
    hostAct (.rd x) t = .next { t with seen := s.seen ++ [s.read x, s.read x] }) ∧
  (∀ s : State, s.read .a = .a s.a ∧ s.read .b = .b s.b ∧ s.read .hs = .hs s.hs ∧ s.read .le = .le s.le ∧
    s.read .ib = .ib s.ib ∧ s.read .it = .it s.it ∧ s.read .itlen = .itlen s.itlen ∧ s.read .r = .r s.r ∧
    s.read .ir = .ir s.ir ∧ s.read .sr = .sr s.sr ∧ s.read .ob = .ob s.ob ∧ s.read .oblen = .oblen s.oblen ∧
    s.read .ot = .ot s.ot ∧ s.read .otlen = .otlen s.otlen ∧ s.read .cmd = .cmd s.cmd ∧
    s.read .err = .err s.err ∧ s.read .busy = .busy s.busy)

/-- Rules R241, R245: while `BUSY` is 1 a write and a command are refused, in both machines; reset is not. -/
def Obligations.HostActionWhileBusyIsRefused : Prop :=
  (∀ s : State, s.busy = 1 →
    (∀ w, hostAct (.wr w) s = .refused .hostActionWhileBusy) ∧
    (∀ c, hostAct (.cmd c) s = .refused .hostActionWhileBusy) ∧
    ∃ t, hostAct .reset s = .next t ∧ ∀ x : Reg, t.read x = State.reset.read x) ∧
  (∀ (p : PinsIn) (m : Clocked), m.core.busy = 1 → p.rst = false → (p.cmdValid = true ∨ p.writes ≠ []) →
    clock p m = .refused .hostActionWhileBusy)

/-- Rule R60: running a list of host actions step by step is performing them one after another. The list is the
model's own field (log entry 1). -/
def Obligations.ScriptRunsActionByAction : Prop :=
  ∀ (acts : List HostAction) (s : State),
    Sys2Proof.core.run acts.length { s with script := acts } = hostActs acts { s with script := [] }

/-! ## Unit 2: the adder, the comparator, the raw divider -/

/-- Rule R120. -/
def Obligations.AddWrapsTheExactSum : Prop :=
  encode .add = 0x20#8 ∧ ∀ s : State, ∃ v : Word,
    exec .add s = .next { s with r := v, err := 0, busy := 0 } ∧
    (v.toNat : Int) = (s.a.toInt + s.b.toInt) % 2 ^ 128 ∧
    (s.b = 0 → v = s.a) ∧ (s.a = 0 → v = s.b) ∧
    (s.a.toInt = 2 ^ 127 - 1 → s.b.toInt = 1 → v.toInt = -2 ^ 127)

/-- Rule R121. -/
def Obligations.SubWrapsTheExactDifference : Prop :=
  encode .sub = 0x21#8 ∧ ∀ s : State, ∃ v : Word,
    exec .sub s = .next { s with r := v, err := 0, busy := 0 } ∧
    (v.toNat : Int) = (s.a.toInt - s.b.toInt) % 2 ^ 128 ∧
    (s.a = s.b → v = 0) ∧
    (s.a.toInt = -2 ^ 127 → s.b.toInt = 1 → v.toInt = 2 ^ 127 - 1) ∧
    (s.a = 0 → s.b.toInt = -2 ^ 127 → v.toInt = -2 ^ 127)

/-- Rules R122, R10: division of the raw values truncated toward zero; a zero divisor raises `DivisionByZero` and
leaves `R`. -/
def Obligations.QuoTruncatesTheRawQuotient : Prop :=
  encode .quo = 0x22#8 ∧
  (∀ s : State, s.b.toInt ≠ 0 → ∃ v : Word,
    exec .quo s = .next { s with r := v, err := 0, busy := 0 } ∧
    (v.toNat : Int) = s.a.toInt.sign * s.b.toInt.sign * ((s.a.toInt.natAbs / s.b.toInt.natAbs : Nat) : Int) % 2 ^ 128 ∧
    (s.a.toInt = -7 → s.b.toInt = 2 → v.toInt = -3) ∧
    (s.a.toInt = 7 → s.b.toInt = -2 → v.toInt = -3) ∧
    (s.a.toInt = -7 → s.b.toInt = -2 → v.toInt = 3) ∧
    (s.a.toInt = -2 ^ 127 → s.b.toInt = -1 → v.toInt = -2 ^ 127) ∧
    (s.a.toInt.natAbs < s.b.toInt.natAbs → v = 0)) ∧
  (∀ s : State, s.b.toInt = 0 → exec .quo s = .next { s with err := 1, busy := 0 })

/-- Rule R128, the table of `QUO` at the signs and the law of the remainder (no command computes it): the remainder
that goes with the quotient is smaller than the divisor in magnitude and has the sign of the dividend. -/
def Obligations.QuoSignTable : Prop :=
  ∀ (s t : State), s.b.toInt ≠ 0 → exec .quo s = .next t →
    (0 < s.a.toInt → 0 < s.b.toInt → t.r.toInt = s.a.toInt / s.b.toInt) ∧
    (s.a.toInt < 0 → 0 < s.b.toInt → t.r.toInt = -((s.a.toInt.natAbs : Int) / s.b.toInt)) ∧
    (0 < s.a.toInt → s.b.toInt < 0 → t.r.toInt = -(s.a.toInt / (s.b.toInt.natAbs : Int))) ∧
    (s.a.toInt < 0 → s.b.toInt < 0 → ¬(s.a.toInt = -2 ^ 127 ∧ s.b.toInt = -1) →
      t.r.toInt = (s.a.toInt.natAbs : Int) / (s.b.toInt.natAbs : Int)) ∧
    (s.a = 0 → t.r = 0) ∧
    (¬(s.a.toInt = -2 ^ 127 ∧ s.b.toInt = -1) →
      (s.a.toInt - s.b.toInt * t.r.toInt).natAbs < s.b.toInt.natAbs ∧
      0 ≤ (s.a.toInt - s.b.toInt * t.r.toInt) * s.a.toInt)

/-- Rule R123. -/
def Obligations.NegWrapsTheNegatedValue : Prop :=
  encode .neg = 0x23#8 ∧ ∀ s : State, ∃ v : Word,
    exec .neg s = .next { s with r := v, err := 0, busy := 0 } ∧
    (v.toNat : Int) = -s.a.toInt % 2 ^ 128 ∧
    (s.a = 0 → v = 0) ∧ (s.a.toInt = -2 ^ 127 → v = s.a) ∧ (s.a.toInt ≠ -2 ^ 127 → v.toInt = -s.a.toInt)

/-- Rule R124, with the law of §8 it quotes: exactly one of -1, 0, 1, and the swapped comparison is its negation. -/
def Obligations.CmpOrdersTheSignedValues : Prop :=
  encode .cmp = 0x24#8 ∧ ∀ s : State, ∃ v w : BitVec 2,
    exec .cmp s = .next { s with sr := v, err := 0, busy := 0 } ∧
    v = (if s.a.toInt < s.b.toInt then 0b11#2 else if s.a.toInt = s.b.toInt then 0b00#2 else 0b01#2) ∧
    (v = 0b00#2 ↔ s.a = s.b) ∧
    exec .cmp { s with a := s.b, b := s.a } = .next { s with a := s.b, b := s.a, sr := w, err := 0, busy := 0 } ∧
    v.toInt = -w.toInt

/-- Rule R125. -/
def Obligations.SignIsTheSignOfTheRawValue : Prop :=
  encode .sign = 0x25#8 ∧ ∀ s : State, ∃ v : BitVec 2,
    exec .sign s = .next { s with sr := v, err := 0, busy := 0 } ∧ v.toInt = s.a.toInt.sign ∧
    exec .cmp { s with b := ZERO } = .next { s with b := ZERO, sr := v, err := 0, busy := 0 }

/-- Rule R126, with the sign law of §8 as this hardware has it: `NEG` turns `ISNEG` over for every value that is not
zero but `MIN`. -/
def Obligations.IsnegIsTheTopBit : Prop :=
  encode .isneg = 0x26#8 ∧ ∀ s : State, ∃ v : BitVec 2,
    exec .isneg s = .next { s with sr := v, err := 0, busy := 0 } ∧
    v = (if s.a.toInt < 0 then 0b01#2 else 0b00#2) ∧ v = 0#1 ++ s.a.extractLsb' 127 1 ∧
    (s.a ≠ 0 → ∃ t u : State, exec .neg s = .next t ∧ exec .isneg { t with a := t.r } = .next u ∧
      ((u.sr = 0b01#2 ↔ v = 0b00#2) ↔ s.a.toInt ≠ -2 ^ 127))

/-- Rule R127. -/
def Obligations.IszeroTestsTheValue : Prop :=
  encode .iszero = 0x27#8 ∧ ∀ s : State,
    exec .iszero s = .next { s with sr := if s.a = 0 then 0b01#2 else 0b00#2, err := 0, busy := 0 } ∧
    (s.a = 0 ↔ s.a.toInt = 0)

/-- Rule R129: `ADD` of `ZERO` is the identity; `ZERO` is zero; `ADD` is commutative and associative modulo 2^128;
`SUB(a, b)` is `ADD(a, NEG(b))` for every pair, `MIN` included; `MUL` of `ONE` and `ZERO`. `run i x y` is `R` after
command `i` on `x` and `y`. -/
def Obligations.AdderLaws : Prop :=
  ∃ run : Instr → Word → Word → Word,
    (∀ (s : State) (i : Instr), i ∈ [Instr.add, .sub, .neg, .mul] → ∃ t, exec i s = .next t ∧ t.r = run i s.a s.b) ∧
    (∀ s : State, s.a = ZERO → ∃ t, exec .iszero s = .next t ∧ t.sr = 0b01#2) ∧
    (∀ x, run .add x ZERO = x) ∧ (∀ x y, run .add x y = run .add y x) ∧
    (∀ x y z, run .add (run .add x y) z = run .add x (run .add y z)) ∧
    (∀ x y z, run .sub x y = run .add x (run .neg y z)) ∧
    (∀ x, run .mul x ONE = x) ∧ (∀ x, run .mul x ZERO = ZERO)

/-! ## Unit 3: the multiplier -/

/-- Rules R140, R26: the exact product shifted right by 64 (floor), wrapped. -/
def Obligations.MulFloorsTheRescaledProduct : Prop :=
  encode .mul = 0x30#8 ∧ ∀ s : State, ∃ v : Word,
    exec .mul s = .next { s with r := v, err := 0, busy := 0 } ∧
    (v.toNat : Int) = s.a.toInt * s.b.toInt / 2 ^ 64 % 2 ^ 128 ∧
    (s.a.toInt = 2 ^ 63 → s.b.toInt = 2 ^ 63 → v.toInt = 2 ^ 62)

/-- Rules R141, R142: the exact product fits the 256-bit signed word, `R` is its bits 191:64, and the product, the
shifted product and `R` are the sums of the four 64-bit partial products. -/
def Obligations.MulIsTheMiddleOfTheDoubleWidthProduct : Prop :=
  ∀ (s t : State) (aH bH : Int) (aL bL : Nat), exec .mul s = .next t →
    aH = (s.a.extractLsb' 64 64).toInt → bH = (s.b.extractLsb' 64 64).toInt →
    aL = (s.a.extractLsb' 0 64).toNat → bL = (s.b.extractLsb' 0 64).toNat →
    t.r = (s.a.signExtend 256 * s.b.signExtend 256).extractLsb' 64 128 ∧
    (s.a.signExtend 256 * s.b.signExtend 256).toInt = s.a.toInt * s.b.toInt ∧
    (s.a.toInt * s.b.toInt).natAbs ≤ 2 ^ 254 ∧
    s.a.toInt = aH * 2 ^ 64 + aL ∧ s.b.toInt = bH * 2 ^ 64 + bL ∧
    s.a.toInt * s.b.toInt = aH * bH * 2 ^ 128 + (aH * bL + aL * bH) * 2 ^ 64 + aL * bL ∧
    s.a.toInt * s.b.toInt / 2 ^ 64 = aH * bH * 2 ^ 64 + aH * bL + aL * bH + (aL * bL / 2 ^ 64 : Nat) ∧
    (t.r.toNat : Int) = (aH * bH * 2 ^ 64 + aH * bL + aL * bH + (aL * bL / 2 ^ 64 : Nat)) % 2 ^ 128

/-- Rule R143: the product is rounded toward minus infinity, whatever the signs; negating an operand first gives the
negated product, or one unit of the last place less where the product is no multiple of `2^64`. -/
def Obligations.MulRoundsTowardMinusInfinity : Prop :=
  ∀ s : State, ∃ v u : Word,
    exec .mul s = .next { s with r := v, err := 0, busy := 0 } ∧
    exec .mul { s with a := -s.a } = .next { s with a := -s.a, r := u, err := 0, busy := 0 } ∧
    (v.toNat : Int) = ⌊(s.a.toInt * s.b.toInt : Rat) / 2 ^ 64⌋ % 2 ^ 128 ∧
    (-2 ^ 63 ≤ realOf s.a * realOf s.b → realOf s.a * realOf s.b < 2 ^ 63 →
      realOf v ≤ realOf s.a * realOf s.b ∧ realOf s.a * realOf s.b < realOf v + 1 / 2 ^ 64) ∧
    (s.a.toInt ≠ -2 ^ 127 → u = if s.a.toInt * s.b.toInt % 2 ^ 64 = 0 then -v else -v - 1) ∧
    (s.a.toInt = 1 → s.b.toInt = 1 → v.toInt = 0) ∧ (s.a.toInt = -1 → s.b.toInt = 1 → v.toInt = -1) ∧
    (s.a.toInt = -1 → s.b.toInt = -1 → v.toInt = 0) ∧ (s.a.toInt = -3 → s.b.toInt = 2 ^ 63 → v.toInt = -2) ∧
    (s.a.toInt = 3 → s.b.toInt = 2 ^ 63 → v.toInt = 1) ∧
    (s.a.toInt = 3 * 2 ^ 64 → s.b.toInt = 0x5555555555555555 → v.toInt = 2 ^ 64 - 1)

/-- Rule R144: `ONE` and `ZERO`, `MIN` included; commutative, not associative. `run x y` is `R` after `MUL` of `x`
and `y`. -/
def Obligations.MulIdentityZeroAndCommutativity : Prop :=
  ∃ run : Word → Word → Word,
    (∀ s : State, exec .mul s = .next { s with r := run s.a s.b, err := 0, busy := 0 }) ∧
    (∀ x, run x ONE = x) ∧ (∀ x, run ONE x = x) ∧ (∀ x, run x ZERO = ZERO) ∧ (∀ x, run ZERO x = ZERO) ∧
    (∀ x y, run x y = run y x) ∧ ∃ x y z, run (run x y) z ≠ run x (run y z)

/-- Rule R145: the range of the shifted product, its two ends reached, the results that are exact (those where the
product of the represented values lies in `[-2^63, 2^63)`), and the wrap of the others. -/
def Obligations.MulRangeAndOverflow : Prop :=
  ∀ s : State, ∃ v : Word,
    exec .mul s = .next { s with r := v, err := 0, busy := 0 } ∧
    -2 ^ 190 + 2 ^ 63 ≤ s.a.toInt * s.b.toInt / 2 ^ 64 ∧ s.a.toInt * s.b.toInt / 2 ^ 64 ≤ 2 ^ 190 ∧
    (s.a.toInt = -2 ^ 127 → s.b.toInt = 2 ^ 127 - 1 → s.a.toInt * s.b.toInt / 2 ^ 64 = -2 ^ 190 + 2 ^ 63) ∧
    (s.a.toInt = -2 ^ 127 → s.b.toInt = -2 ^ 127 → s.a.toInt * s.b.toInt / 2 ^ 64 = 2 ^ 190 ∧ v = 0) ∧
    (v.toInt = s.a.toInt * s.b.toInt / 2 ^ 64 ↔
      -2 ^ 127 ≤ s.a.toInt * s.b.toInt / 2 ^ 64 ∧ s.a.toInt * s.b.toInt / 2 ^ 64 < 2 ^ 127) ∧
    (v.toInt = s.a.toInt * s.b.toInt / 2 ^ 64 ↔
      -2 ^ 63 ≤ realOf s.a * realOf s.b ∧ realOf s.a * realOf s.b < 2 ^ 63) ∧
    (v.toNat : Int) = s.a.toInt * s.b.toInt / 2 ^ 64 % 2 ^ 128

/-- Rules R146, R149, R150, R151: `MULINT` in closed form, exact in `IR` for every operand. -/
def Obligations.MulintRoundsTheExactProduct : Prop :=
  encode .mulint = 0x31#8 ∧ ∀ s : State, ∃ v : IWord,
    exec .mulint s = .next { s with ir := v, err := 0, busy := 0 } ∧
    v.toInt =
      (if s.b.toInt = 0 then 0
       else if s.b.toInt = 1 then s.a.toInt.sign * ((s.a.toInt.natAbs / 2 ^ 64 : Nat) : Int)
       else s.a.toInt.sign * s.b.toInt.sign *
        (((s.a.toInt.natAbs * s.b.toInt.natAbs + 2 ^ 63) / 2 ^ 64 : Nat) : Int)) ∧
    v.toInt.natAbs ≤ 2 ^ 190 ∧ (s.a.toInt = -2 ^ 127 → s.b.toInt = -2 ^ 127 → v.toInt = 2 ^ 190)

/-- Rule R148. -/
def Obligations.HydrateClosedForm : Prop :=
  ∀ lo d : Nat, lo < 2 ^ 64 → 1 ≤ d → d ≤ 2 ^ 127 → hydrate lo d = (lo * d + 2 ^ 63) / 2 ^ 64

/-! ## Unit 1: the division engine -/

/-- Rules R103, R104: the fractional division is the floor of `part * 2^64 / d`, and its early stop cannot be observed:
all 64 iterations run unconditionally give the same. -/
def Obligations.FracdivClosedForm : Prop :=
  ∀ part d : Nat, 1 ≤ d → d ≤ 2 ^ 127 → part < d →
    fracdiv part d = part * 2 ^ 64 / d ∧ fracdiv part d < 2 ^ 64 ∧
    fracdiv part d = longDivision 64 (d <<< clz 192 d) (part <<< clz 192 d) 0

/-- Rules R100, R105, R108: `CONS` in closed form, `|x| * 2^64 fdiv |y|` with its integer part cut to 64 bits, the
sign put on afterwards, wrapped. -/
def Obligations.ConsBuildsTheTruncatedQuotient : Prop :=
  encode .cons = 0x10#8 ∧ ∀ s : State, s.b.toInt ≠ 0 → ∃ v : Word,
    exec .cons s = .next { s with r := v, err := 0, busy := 0 } ∧
    (v.toNat : Int) =
      (if (s.a.toInt < 0) ≠ (s.b.toInt < 0)
       then -((s.a.toInt.natAbs * 2 ^ 64 / s.b.toInt.natAbs % 2 ^ 128 : Nat) : Int)
       else ((s.a.toInt.natAbs * 2 ^ 64 / s.b.toInt.natAbs % 2 ^ 128 : Nat) : Int)) % 2 ^ 128

/-- Rules R109, R212: a zero denominator raises `DivisionByZero` whatever the numerator; the extreme operands are
legal. -/
def Obligations.ConsByZeroRaises : Prop :=
  (∀ s : State, s.b.toInt = 0 → exec .cons s = .next { s with err := 1, busy := 0 }) ∧
  (∀ s : State, s.a.toInt = -2 ^ 127 → s.b.toInt = -2 ^ 127 →
    exec .cons s = .next { s with r := ONE, err := 0, busy := 0 }) ∧
  (∀ s : State, s.a.toInt = 1 → s.b.toInt = -2 ^ 127 →
    exec .cons s = .next { s with r := 0, err := 0, busy := 0 })

/-- Rules R106, R107, for the quotients that fit (the exact results of rule R108): `R` is the multiple of `2^-64` nearest
to `x / y` between 0 and `x / y` (truncation toward zero, no rounding), with the sign of `x / y`; zero has no sign. -/
def Obligations.ConsRoundsTowardZero : Prop :=
  ∀ (s t : State), s.b.toInt ≠ 0 → exec .cons s = .next t →
    (s.a.toInt.natAbs * 2 ^ 64 / s.b.toInt.natAbs < 2 ^ 127 ∨
      (s.a.toInt.natAbs * 2 ^ 64 / s.b.toInt.natAbs = 2 ^ 127 ∧ s.a.toInt.sign * s.b.toInt.sign = -1)) →
    |realOf t.r| ≤ |(s.a.toInt : Rat) / s.b.toInt| ∧
    |(s.a.toInt : Rat) / s.b.toInt| < |realOf t.r| + 1 / 2 ^ 64 ∧
    0 ≤ realOf t.r * ((s.a.toInt : Rat) / s.b.toInt) ∧
    t.r.toInt = s.a.toInt.sign * s.b.toInt.sign * (s.a.toInt.natAbs * 2 ^ 64 / s.b.toInt.natAbs : Nat) ∧
    (s.a = 0 → t.r = ZERO)

/-- Rules R105, R149, R152: `CONS(x, y)` followed by `MULINT` by `y` gives `x` back, for every fraction that fits
and every denominator up to `2^63` in magnitude: the truncation of the one and the rounding of the other cancel. The
case `y = 86400000` is milliseconds to days and back. -/
def Obligations.ConsThenMulintReturnsTheNumerator : Prop :=
  ∀ s : State, s.b.toInt ≠ 0 → s.b.toInt.natAbs ≤ 2 ^ 63 → s.a.toInt.natAbs < 2 ^ 63 * s.b.toInt.natAbs →
    ∃ t u : State, exec .cons s = .next t ∧ exec .mulint { t with a := t.r } = .next u ∧
      u.ir.toInt = s.a.toInt ∧ u.err = 0

/-! ## Unit 4: the byte codec -/

/-- Rules R160, R56: byte `i` of `OB` is bits `127-8i : 120-8i` of `A`. -/
def Obligations.Tob16IsTheBigEndianWord : Prop :=
  encode .tob16 = 0x40#8 ∧ ∀ s : State, ∃ v : Vector Byte 17,
    exec .tob16 s = .next { s with ob := v, oblen := 16, err := 0, busy := 0 } ∧
    (∀ i : Fin 16, v[i.val] = s.a.extractLsb' (120 - 8 * i.val) 8) ∧ v[16] = 0

/-- Rule R163: the 16-byte form and the raw value determine each other. -/
def Obligations.SixteenByteFormIsABijection : Prop :=
  (∀ v : Word, wrap 128 (beval (be 16 v.toNat)) = v) ∧
  (∀ l : List Byte, l.length = 16 → be 16 (wrap 128 (beval l)).toNat = l)

/-- Rules R161, R165: the sign byte, then the magnitude, big-endian, its integer part in bytes 1 to 8. -/
def Obligations.TosmIsSignThenMagnitude : Prop :=
  encode .tosm = 0x41#8 ∧ ∀ s : State, ∃ v : Vector Byte 17,
    exec .tosm s = .next { s with ob := v, oblen := 17, err := 0, busy := 0 } ∧
    v[0] = (if s.a.toInt < 0 then 1 else 0) ∧
    (∀ i : Fin 17, 1 ≤ i.val → (v[i]).toNat = s.a.toInt.natAbs / 2 ^ (8 * (16 - i.val)) % 256) ∧
    v.toList = sm17 s.a ∧ sm17 s.a = (if s.a.toInt < 0 then 1 else 0) :: (be 8 (hiPart s.a) ++ be 8 (loPart s.a))

/-- Rules R162, R166: a sign byte of 2 or more raises `InvalidBase64` and leaves `R`; any other 17 bytes have the
value sign times magnitude, wrapped, negative zero and magnitudes of `2^127` and more included. -/
def Obligations.FromsmReadsSignAndMagnitude : Prop :=
  encode .fromsm = 0x42#8 ∧
  (∀ s : State, (s.ib[0]).toNat ≤ 1 → ∃ v : Word,
    exec .fromsm s = .next { s with r := v, err := 0, busy := 0 } ∧
    (v.toNat : Int) = (if (s.ib[0]).toNat = 1 then -1 else 1) *
      (∑ i : Fin 16, ((s.ib[i.val + 1]).toNat : Int) * 256 ^ (15 - i.val)) % 2 ^ 128) ∧
  (∀ s : State, 1 < (s.ib[0]).toNat → exec .fromsm s = .next { s with err := 5, busy := 0 })

/-- Rule R164: `TOSM`, copy, `FROMSM` gives `A` back; in the other direction exactly the canonical strings come
back. -/
def Obligations.ByteFormRoundTrip : Prop :=
  (∀ s : State, s.busy = 0 → ∃ t, runScript [.cmd .tosm, .mvb, .cmd .fromsm] s = some (.next t) ∧
    t.r = s.a ∧ t.a = s.a ∧ t.err = 0) ∧
  (∀ l : List Byte, l.length = 17 → (l.getD 0 0).toNat ≤ 1 →
    (sm17 (unsm17 l) = l ↔
      (beval (l.drop 1) ≤ 2 ^ 127 - 1 + (l.getD 0 0).toNat ∧
        ¬((l.getD 0 0).toNat = 1 ∧ beval (l.drop 1) = 0))))

/-! ## Unit 5: the hex codec -/

/-- Rules R176, R177, R196: the characters of both text codecs, their values, and the two helper functions between byte
strings and hex digits. -/
def Obligations.TextAlphabets : Prop :=
  (chMinus = 0x2D#8 ∧ chPoint = 0x2E#8 ∧ chPad = 0x3D#8) ∧
  (∀ n : Fin 10, hexChar n.val = BitVec.ofNat 8 (0x30 + n.val)) ∧
  (∀ n : Fin 6, hexChar (10 + n.val) = BitVec.ofNat 8 (0x41 + n.val)) ∧
  (∀ (c : Byte) (n : Nat), hexVal c = some n ↔
    (n < 10 ∧ c.toNat = 0x30 + n) ∨ (10 ≤ n ∧ n < 16 ∧ (c.toNat = 0x41 + (n - 10) ∨ c.toNat = 0x61 + (n - 10)))) ∧
  (∀ c : Byte, isSpace c = true ↔ c.toNat ∈ [0x09, 0x0A, 0x0B, 0x0C, 0x0D, 0x20]) ∧
  (∀ l : List Byte, (hexenc l).length = 2 * l.length ∧ hexdec (hexenc l) = l ∧
    ∀ i : Fin l.length, (hexenc l)[2 * i.val]? = some (hexChar ((l[i]).toNat / 16)) ∧
      (hexenc l)[2 * i.val + 1]? = some (hexChar ((l[i]).toNat % 16))) ∧
  (∀ t : List Byte, t.length % 2 = 0 → (∀ c ∈ t, (hexVal c).isSome = true) → (hexdec t).length = t.length / 2 ∧
    ∀ i, i < t.length / 2 → ((hexdec t).getD i 0).toNat =
      16 * (hexVal (t.getD (2 * i) 0)).getD 0 + (hexVal (t.getD (2 * i + 1) 0)).getD 0) ∧
  (∀ (c : Byte) (n : Nat), b64val c = some n ↔ n < 64 ∧ c = b64char n) ∧
  (∀ n : Fin 64, (b64char n.val).toNat =
    if n.val < 26 then 0x41 + n.val else if n.val < 52 then 0x61 + (n.val - 26)
    else if n.val < 62 then 0x30 + (n.val - 52) else if n.val = 62 then 0x2B else 0x2F)

/-- Rules R178, R213: the text at the precision pair, zeros after it, its length; any other pair raises
`InvalidPrecision` and leaves `OT` and `OTLEN`, whatever `A` is. -/
def Obligations.TohexpPrintsTheWindow : Prop :=
  encode .tohexp = 0x51#8 ∧
  (∀ s : State, 1 ≤ s.hs.toNat → s.hs.toNat ≤ 8 → 10 ≤ s.le.toNat → s.le.toNat ≤ 17 →
    ∃ (v : Vector Byte 34) (n : BitVec 6),
      exec .tohexp s = .next { s with ot := v, otlen := n, err := 0, busy := 0 } ∧
      n.toNat = (if s.a.toInt < 0 then 1 else 0) + 2 * (9 - s.hs.toNat) + 1 + 2 * (s.le.toNat - 9) ∧
      v.toList = (if s.a.toInt < 0 then [0x2D#8] else []) ++
        hexenc (((sm17 s.a).drop s.hs.toNat).take (9 - s.hs.toNat)) ++ [0x2E#8] ++
        hexenc (((sm17 s.a).drop 9).take (s.le.toNat - 9)) ++ List.replicate (34 - n.toNat) 0) ∧
  (∀ s : State, ¬(1 ≤ s.hs.toNat ∧ s.hs.toNat ≤ 8 ∧ 10 ≤ s.le.toNat ∧ s.le.toNat ≤ 17) →
    exec .tohexp s = .next { s with err := 2, busy := 0 })

/-- Rules R179, R181: `TOHEX` is `TOHEXP` at the automatic pair, the first integer byte and the last fractional byte
that are not 0, with at least one byte a side; `HS` and `LE` are neither read nor written. -/
def Obligations.TohexTrimsZeroBytes : Prop :=
  encode .tohex = 0x50#8 ∧ ∀ s : State, ∃ (hs le : Nat) (v : Vector Byte 34) (n : BitVec 6),
    exec .tohex s = .next { s with ot := v, otlen := n, err := 0, busy := 0 } ∧
    exec .tohexp { s with hs := BitVec.ofNat 8 hs, le := BitVec.ofNat 8 le } =
      .next { s with hs := BitVec.ofNat 8 hs, le := BitVec.ofNat 8 le, ot := v, otlen := n, err := 0, busy := 0 } ∧
    1 ≤ hs ∧ hs ≤ 8 ∧ 10 ≤ le ∧ le ≤ 17 ∧
    (∀ i, 1 ≤ i → i < hs → (sm17 s.a).getD i 0 = 0) ∧ (hs < 8 → (sm17 s.a).getD hs 0 ≠ 0) ∧
    (∀ j, le ≤ j → j ≤ 16 → (sm17 s.a).getD j 0 = 0) ∧ (10 < le → (sm17 s.a).getD (le - 1) 0 ≠ 0) ∧
    (s.a = ZERO → v.toList.take 5 = [0x30, 0x30, 0x2E, 0x30, 0x30] ∧ n = 5)

/-- Rules R180, R214, R215, R220, R26: every text of the accepted form has the value of its numeral, an odd half padded
on the left, wrapped; a blank text raises `EmptyInput`; any other text raises `FormatError`; on an error `R` keeps its
value. -/
def Obligations.FromhexReadsTheNumeralOrRaises : Prop :=
  encode .fromhex = 0x52#8 ∧
  (∀ (s : State) (negative : Bool) (H L : List Byte), IsHexText negative H L s.inputText → ∃ v : Word,
    exec .fromhex s = .next { s with r := v, err := 0, busy := 0 } ∧
    (v.toNat : Int) = (if negative then -1 else 1) *
      ((hexNumeral H * 2 ^ 64 + hexNumeral L * 256 ^ (8 - (L.length + 1) / 2) : Nat) : Int) % 2 ^ 128) ∧
  (∀ s : State, (∀ c ∈ s.inputText, isSpace c = true) →
    exec .fromhex s = .next { s with err := 3, busy := 0 }) ∧
  (∀ s : State, (∃ c ∈ s.inputText, isSpace c = false) →
    (¬∃ (negative : Bool) (H L : List Byte), IsHexText negative H L s.inputText) →
    exec .fromhex s = .next { s with err := 4, busy := 0 })

/-- Rule R182: `TOHEX`, copy the text, `FROMHEX` gives `A` back, for every `A`. -/
def Obligations.HexRoundTrip : Prop :=
  ∀ s : State, s.busy = 0 → ∃ t, runScript [.cmd .tohex, .mvt, .cmd .fromhex] s = some (.next t) ∧
    t.r = s.a ∧ t.a = s.a ∧ t.err = 0

/-- Rule R183: with an explicit window the parsed value is `A` with the magnitude bytes outside it cleared, and it is
`A` exactly when the window covers every byte that is not 0. -/
def Obligations.HexWindowRoundTrip : Prop :=
  ∀ s : State, s.busy = 0 → 1 ≤ s.hs.toNat → s.hs.toNat ≤ 8 → 10 ≤ s.le.toNat → s.le.toNat ≤ 17 →
    ∃ t, runScript [.cmd .tohexp, .mvt, .cmd .fromhex] s = some (.next t) ∧ t.err = 0 ∧
      (t.r.toNat : Int) = (if s.a.toInt < 0 then -1 else 1) *
        ((hiPart s.a % 256 ^ (9 - s.hs.toNat) * 2 ^ 64 +
          loPart s.a / 256 ^ (17 - s.le.toNat) * 256 ^ (17 - s.le.toNat) : Nat) : Int) % 2 ^ 128 ∧
      (t.r = s.a ↔ (∀ i, 1 ≤ i → i < s.hs.toNat → (sm17 s.a).getD i 0 = 0) ∧
        (∀ j, s.le.toNat ≤ j → j ≤ 16 → (sm17 s.a).getD j 0 = 0))

/-! ## Unit 6: the base64 codec -/

/-- Rules R195, R197, R198: 24 characters, the groups of 6 bits of the 17-byte form and two zero bits, most
significant first, then one `=`; zeros after them. -/
def Obligations.Tob64EncodesTheByteForm : Prop :=
  encode .tob64 = 0x60#8 ∧ ∀ s : State, ∃ v : Vector Byte 34,
    exec .tob64 s = .next { s with ot := v, otlen := 24, err := 0, busy := 0 } ∧
    (∀ k : Fin 23, v[k.val] = b64char (beval (sm17 s.a) * 4 / 64 ^ (22 - k.val) % 64)) ∧
    v[23] = 0x3D#8 ∧ (∀ k : Fin 34, 24 ≤ k.val → v[k] = 0)

/-- Rules R199, R200, R216: on the accepted set the decoder gives `unsm17` of the one 17-byte string whose encoding the
text is; every other text raises `InvalidBase64` and leaves `R` (`EmptyInput` is never raised). -/
def Obligations.Fromb64AcceptsExactlyTheAcceptedSet : Prop :=
  encode .fromb64 = 0x61#8 ∧
  (∀ s : State, IsB64Text s.inputText → ∃ l : List Byte,
    exec .fromb64 s = .next { s with r := unsm17 l, err := 0, busy := 0 } ∧
    l.length = 17 ∧ (l.getD 0 0).toNat ≤ 1 ∧ b64enc17 l = s.inputText ∧
    ∀ l' : List Byte, l'.length = 17 → b64enc17 l' = s.inputText → l' = l) ∧
  (∀ s : State, ¬IsB64Text s.inputText → exec .fromb64 s = .next { s with err := 5, busy := 0 })

/-- Rule R201: `TOB64`, copy the text, `FROMB64` gives `A` back, for every `A`. -/
def Obligations.Base64RoundTrip : Prop :=
  ∀ s : State, s.busy = 0 → ∃ t, runScript [.cmd .tob64, .mvt, .cmd .fromb64] s = some (.next t) ∧
    t.r = s.a ∧ t.a = s.a ∧ t.err = 0

/-! ## The host script, the first command, the pins -/

/-- Rule R75: what each pseudo-action does to the registers, for every register it may name. Which registers those are,
beyond the examples of the rule, is the model's reading (DEDUCED, log entry 9); the last clause says that these forms are
all the well-formed ones. `seen` is the host's own record (log entry 2). -/
def Obligations.PseudoActionsCopyRegisters : Prop :=
  (∀ s : State, s.busy = 0 →
    runScript [.mv .a .r] s = some (.next { s with a := s.r, seen := s.seen ++ [.r s.r] }) ∧
    runScript [.mv .b .r] s = some (.next { s with b := s.r, seen := s.seen ++ [.r s.r] }) ∧
    runScript [.mv .ib .ob] s = some (.next { s with ib := s.ob, seen := s.seen ++ [.ob s.ob] }) ∧
    runScript [.mvb] s = some (.next { s with ib := s.ob, seen := s.seen ++ [.ob s.ob] }) ∧
    (s.otlen.toNat ≤ 34 → ∃ (v : Vector Byte 127) (n : BitVec 7),
      runScript [.mvt] s =
        some (.next { s with it := v, itlen := n, seen := s.seen ++ [.ot s.ot, .otlen s.otlen] }) ∧
      n.toNat = s.otlen.toNat ∧
      v.toList = s.ot.toList.take s.otlen.toNat ++ List.replicate (127 - s.otlen.toNat) 0) ∧
    runScript [.ldzero .a] s = some (.next { s with a := ZERO }) ∧
    runScript [.ldzero .b] s = some (.next { s with b := ZERO }) ∧
    runScript [.ldzero .hs] s = some (.next { s with hs := 0 }) ∧
    runScript [.ldzero .le] s = some (.next { s with le := 0 }) ∧
    runScript [.ldzero .itlen] s = some (.next { s with itlen := 0 }) ∧
    runScript [.ldone .a] s = some (.next { s with a := ONE }) ∧
    runScript [.ldone .b] s = some (.next { s with b := ONE })) ∧
  (∀ dst src : Reg, (ScriptLine.mv dst src).wf = true ↔ (dst, src) ∈ [(Reg.a, Reg.r), (.b, .r), (.ib, .ob)]) ∧
  (∀ x : Reg, (ScriptLine.ldzero x).wf = true ↔ x ∈ [Reg.a, .b, .hs, .le, .itlen]) ∧
  (∀ x : Reg, (ScriptLine.ldone x).wf = true ↔ x ∈ [Reg.a, .b])

/-- Rule R74: `WR IT, "text"` sets `IT` and `ITLEN`, so that the input text is the text. -/
def Obligations.TextLineSetsTheInputText : Prop :=
  ∀ (s : State) (t : List Byte), s.busy = 0 → t.length ≤ 127 → (∀ c ∈ t, c.toNat < 128) →
    ∃ u, runScript [.wr .it (.text t)] s = some (.next u) ∧ u.inputText = t ∧ u.itlen.toNat = t.length ∧
      u = { s with it := u.it, itlen := u.itlen } ∧
      ∀ i : Fin 127, t.length ≤ i.val → u.it[i] = 0

/-- Rule R242 (and 95_test_vectors.md 2.9): the first command after reset. -/
def Obligations.FirstCommandAfterReset : Prop :=
  (∀ i ∈ [Instr.add, .sub, .neg, .mul, .cmp, .sign, .isneg, .mulint, .fromsm],
    hostAct (.cmd (encode i)) State.reset = .next { State.reset with cmd := encode i }) ∧
  (∀ i ∈ [Instr.quo, .cons], hostAct (.cmd (encode i)) State.reset = .next { State.reset with cmd := encode i, err := 1 }) ∧
  hostAct (.cmd 0x27#8) State.reset = .next { State.reset with cmd := 0x27#8, sr := 0b01#2 } ∧
  hostAct (.cmd 0x40#8) State.reset = .next { State.reset with cmd := 0x40#8, oblen := 16 } ∧
  hostAct (.cmd 0x41#8) State.reset = .next { State.reset with cmd := 0x41#8, oblen := 17 } ∧
  hostAct (.cmd 0x50#8) State.reset =
    .next { State.reset with cmd := 0x50#8, otlen := 5, ot := buffer 34 [0x30, 0x30, 0x2E, 0x30, 0x30] } ∧
  hostAct (.cmd 0x51#8) State.reset = .next { State.reset with cmd := 0x51#8, err := 2 } ∧
  hostAct (.cmd 0x52#8) State.reset = .next { State.reset with cmd := 0x52#8, err := 3 } ∧
  hostAct (.cmd 0x60#8) State.reset =
    .next { State.reset with cmd := 0x60#8, otlen := 24, ot := buffer 34 (List.replicate 23 0x41 ++ [0x3D]) } ∧
  hostAct (.cmd 0x61#8) State.reset = .next { State.reset with cmd := 0x61#8, err := 5 } ∧
  hostAct (.cmd 0x00#8) State.reset = .next { State.reset with cmd := 0x00#8, err := 6 }

/-- Rules R34, R55, R244: the pin-level machine refines the atomic one. From an idle core, `cmd_valid` with any code,
legal or reserved, and then quiet clocks: for `k` clocks `BUSY` is 1, `done` is low and only `CMD` has changed; in
the clock after that `done` is high and the registers are those the atomic `CMD c` gives; then `done` falls. The
latency `k + 1` is the free value of `Config.extraClocks` (log entry 4); the statement holds whatever it is. -/
def Obligations.PinsRefineTheAtomicCommand : Prop :=
  ∀ (m : Clocked) (c : BitVec 8), m.core.busy = 0 → ∃ (k : Nat) (t : State),
    hostAct (.cmd c) m.core = .next t ∧
    (∀ j, j ≤ k → ∃ left, clocks (PinsIn.command c :: List.replicate j PinsIn.quiet) m =
      .next { core := { m.core with cmd := c, busy := 1 }, done := false, left := left, issued := m.issued + 1 }) ∧
    clocks (PinsIn.command c :: List.replicate (k + 1) PinsIn.quiet) m =
      .next { core := t, done := true, left := 0, issued := m.issued + 1 } ∧
    clocks (PinsIn.command c :: List.replicate (k + 2) PinsIn.quiet) m =
      .next { core := t, done := false, left := 0, issued := m.issued + 1 }

/-- Rules R240, R241: `rst` at any clock, a command running or not, and whatever else is on the pins, puts every
register to its reset value and records no error and no completion (`done` low in that clock is the model's choice, log
entry 12); the next quiet clock changes nothing. -/
def Obligations.PinResetAbortsARunningCommand : Prop :=
  ∀ (m : Clocked) (p : PinsIn), p.rst = true → ∃ n, clock p m = .next n ∧
    (∀ x : Reg, n.readPort x = State.reset.read x) ∧ n.done = false ∧
    clock PinsIn.quiet n = .next n

/-- Rules R244, R51: the writes asked for at one clock of an idle core are the `WR` actions of the enabled ports, one
after another in any order (every permutation of the ports). That several ports may write in one clock is the model's
reading (DEDUCED, log entry 7). -/
def Obligations.PinWritesAreHostWrites : Prop :=
  ∀ (m : Clocked) (p : PinsIn), m.core.busy = 0 → p.rst = false → p.cmdValid = false →
    ∃ t, clock p m = .next { m with core := t, done := false } ∧
      ∀ l : List OperandWrite, l.Perm p.writes → hostActs (l.map HostAction.wr) m.core = .next t
end

