-- ==== Sys2Proof/Laws/ByteStrings.lean ====
section
/-! SUPPORT. The small lemmas of the byte strings and of the hex and base64 characters: lengths, bounds, and the
big-endian value of a string built or cut. -/

namespace Sys2Proof.Machine

@[simp] theorem be_length (k n : Nat) : (be k n).length = k := by
  induction k with
  | zero => rfl
  | succ k ih => simp [be, ih]

@[simp] theorem zeros_length (k : Nat) : (zeros k).length = k := List.length_replicate

theorem beval_nil : beval [] = 0 := rfl

/-- Rule R11: `beval` reads a string from its last byte. -/
theorem beval_append_singleton (s : List Byte) (c : Byte) : beval (s ++ [c]) = beval s * 256 + c.toNat := by
  simp [beval, List.foldl_append]

/-- Rule R11: the value of a string joined from two. -/
theorem beval_append (s t : List Byte) : beval (s ++ t) = beval s * 256 ^ t.length + beval t := by
  induction t using List.reverseRecOn with
  | nil => simp [beval]
  | append_singleton t c ih =>
    rw [← List.append_assoc, beval_append_singleton, ih, beval_append_singleton]
    simp only [List.length_append, List.length_singleton]
    ring

theorem beval_cons (c : Byte) (t : List Byte) : beval (c :: t) = c.toNat * 256 ^ t.length + beval t := by
  have := beval_append [c] t
  simpa [beval] using this

theorem beval_lt (s : List Byte) : beval s < 256 ^ s.length := by
  induction s with
  | nil => simp [beval]
  | cons c t ih =>
    rw [beval_cons, List.length_cons, pow_succ]
    have := c.isLt
    nlinarith [Nat.pos_of_ne_zero (pow_ne_zero t.length (by norm_num : (256 : Nat) ≠ 0))]

theorem beval_zeros (k : Nat) : beval (zeros k) = 0 := by
  induction k with
  | zero => rfl
  | succ k ih => rw [zeros, List.replicate_succ, beval_cons]; simpa [zeros] using ih

/-- Rule R11: the value of a big-endian string is the number it was made of, modulo its width. -/
theorem beval_be (k n : Nat) : beval (be k n) = n % 256 ^ k := by
  induction k with
  | zero => simp [be, beval, Nat.mod_one]
  | succ k ih =>
    rw [be, beval_cons, ih, be_length, BitVec.toNat_ofNat, Nat.shiftRight_eq_div_pow, pow_mul]
    norm_num
    rw [pow_succ, Nat.mod_mul]
    ring

/-- Rule R11: a string of bytes is the big-endian string of its value. -/
theorem be_beval (s : List Byte) : be s.length (beval s) = s := by
  induction s with
  | nil => rfl
  | cons c t ih =>
    have h := beval_lt t
    have hp : 0 < 256 ^ t.length := by positivity
    rw [List.length_cons, be, beval_cons]
    congr 1
    · rw [Nat.shiftRight_eq_div_pow, pow_mul]
      norm_num
      rw [Nat.add_comm, Nat.add_mul_div_right _ _ hp, Nat.div_eq_of_lt h]
      simp
    · have key : ∀ k m, be k (c.toNat * 256 ^ k + m) = be k m := by
        intro k m
        suffices ∀ j ≤ k, be j (c.toNat * 256 ^ k + m) = be j m from this k le_rfl
        intro j hj
        induction j with
        | zero => rfl
        | succ j ihj =>
          rw [be, be, ihj (by omega)]
          congr 1
          apply BitVec.eq_of_toNat_eq
          rw [BitVec.toNat_ofNat, BitVec.toNat_ofNat, Nat.shiftRight_eq_div_pow, Nat.shiftRight_eq_div_pow, pow_mul]
          norm_num
          obtain ⟨d, rfl⟩ : ∃ d, k = j + 1 + d := ⟨k - (j + 1), by omega⟩
          rw [show c.toNat * 256 ^ (j + 1 + d) + m = m + 256 ^ j * (256 * (c.toNat * 256 ^ d)) by ring,
            Nat.add_mul_div_left _ _ (by positivity)]
          omega
      rw [key, ih]

/-! The buffers (rules R30, R31). -/

@[simp] theorem buffer_getElem (n : Nat) (l : List Byte) (i : Nat) (h : i < n) :
    (buffer n l)[i] = l.getD i 0 := by
  have hz : (buffer n l)[i] = (l.take n ++ zeros (n - l.length))[i]'(by simp; omega) := rfl
  rw [hz, List.getElem_append]
  split
  · rename_i hi
    rw [List.getElem_take, List.getD_eq_getElem]
  · rename_i hi
    rw [List.getD_eq_default _ _ (by simp at hi; omega)]
    simp [zeros]

/-- A string of exactly the buffer's length fills it. -/
theorem buffer_toList_of_length {n : Nat} {l : List Byte} (h : l.length = n) : (buffer n l).toList = l := by
  apply List.ext_getElem
  · simp [h]
  · intro i h1 h2
    rw [Vector.getElem_toList, buffer_getElem _ _ _ (by omega)]
    simp [List.getD_eq_getElem?_getD, List.getElem?_eq_getElem h2]

/-- The bytes of a buffer up to the length of the string in it are the string. -/
theorem buffer_take {n : Nat} {l : List Byte} (h : l.length ≤ n) : (buffer n l).toList.take l.length = l := by
  apply List.ext_getElem
  · simp [h]
  · intro i h1 h2
    rw [List.getElem_take, Vector.getElem_toList, buffer_getElem _ _ _ (by omega)]
    simp [List.getD_eq_getElem?_getD, List.getElem?_eq_getElem h2]

/-- A buffer holds its string and then zeros (rule R31). -/
theorem buffer_toList {n : Nat} {l : List Byte} (h : l.length ≤ n) :
    (buffer n l).toList = l ++ zeros (n - l.length) := by
  apply List.ext_getElem
  · simp [h]
  · intro i h1 h2
    rw [Vector.getElem_toList, buffer_getElem _ _ _ (by simpa using h1), List.getElem_append]
    split
    · simp [List.getD_eq_getElem?_getD, *]
    · rw [List.getD_eq_getElem?_getD, List.getElem?_eq_none (by omega)]
      simp [zeros]

/-! The sign-magnitude form (rules R165, R166). -/

@[simp] theorem sm17_length (v : Word) : (sm17 v).length = 17 := by simp [sm17]

/-- Rule R165: the sign byte is 0 or 1. -/
theorem sm17_sign_le (v : Word) : ((sm17 v).getD 0 0).toNat ≤ 1 := by
  unfold sm17
  by_cases h : isNegative v = true <;> simp [h]

theorem sm17_sign_eq (v : Word) : ((sm17 v).getD 0 0 = 0x01#8) ↔ isNegative v = true := by
  unfold sm17
  by_cases h : isNegative v = true <;> simp [h]

theorem sm17_tail (v : Word) : slice (sm17 v) 1 17 = be 16 (mag v) := by
  have h : (be 16 (mag v)).take 16 = be 16 (mag v) := List.take_of_length_le (by simp)
  simp [sm17, slice, h]

/-! Hex digits (rules R176, R177). -/

@[simp] theorem hexenc_length (s : List Byte) : (hexenc s).length = 2 * s.length := by
  induction s with
  | nil => rfl
  | cons c t ih => simp [hexenc, ih]; ring

/-- Rule R176: the digit written for a value below 16 has that value. -/
theorem hexVal_hexChar {n : Nat} (h : n < 16) : hexVal (hexChar n) = some n := by
  interval_cases n <;> rfl

/-- Rule R177: `hexdec(hexenc(s)) = s`. -/
theorem hexdec_hexenc (s : List Byte) : hexdec (hexenc s) = s := by
  induction s with
  | nil => rfl
  | cons c t ih =>
    have hc := c.isLt
    have h1 : c.toNat >>> 4 < 16 := by rw [Nat.shiftRight_eq_div_pow]; omega
    have h2 : c.toNat % 16 < 16 := Nat.mod_lt _ (by norm_num)
    rw [hexenc, hexdec, ih, hexVal_hexChar h1, hexVal_hexChar h2]
    congr 1
    apply BitVec.eq_of_toNat_eq
    simp only [Option.getD_some, BitVec.toNat_ofNat, Nat.shiftRight_eq_div_pow]
    omega

/-- Every character a formatter writes for a nibble is a digit. -/
theorem hexenc_isDigit (s : List Byte) : ∀ c ∈ hexenc s, (hexVal c).isSome = true := by
  induction s with
  | nil => simp [hexenc]
  | cons c t ih =>
    have hc := c.isLt
    have h1 : c.toNat >>> 4 < 16 := by rw [Nat.shiftRight_eq_div_pow]; omega
    have h2 : c.toNat % 16 < 16 := Nat.mod_lt _ (by norm_num)
    intro x hx
    simp only [hexenc, List.mem_cons] at hx
    rcases hx with rfl | rfl | hx
    · rw [hexVal_hexChar h1]; rfl
    · rw [hexVal_hexChar h2]; rfl
    · exact ih x hx

/-- The point and the minus are no hex digits. -/
theorem hexVal_chPoint : hexVal chPoint = none := rfl
theorem hexVal_chMinus : hexVal chMinus = none := rfl

/-! Base64 characters (rule R196). -/

/-- Rule R196: the character of a 6-bit value has that value. -/
theorem b64val_b64char {k : Nat} (h : k < 64) : b64val (b64char k) = some k := by
  interval_cases k <;> rfl

@[simp] theorem b64groups_length (k n : Nat) : (b64groups k n).length = k := by
  induction k with
  | zero => rfl
  | succ k ih => simp [b64groups, ih]

@[simp] theorem b64enc17_length (s : List Byte) : (b64enc17 s).length = 24 := by simp [b64enc17]

/-- Rules R197, R199: the number read from the groups of `n` is `n`, modulo their width. -/
theorem b64number_b64groups (k n : Nat) : b64number (b64groups k n) = n % 64 ^ k := by
  have step : ∀ (l : List Byte) (acc : Nat),
      l.foldl (fun acc c => acc * 64 + (b64val c).getD 0) acc
        = acc * 64 ^ l.length + l.foldl (fun acc c => acc * 64 + (b64val c).getD 0) 0 := by
    intro l
    induction l with
    | nil => simp
    | cons c t ih =>
      intro acc
      rw [List.foldl_cons, ih, List.foldl_cons, ih (0 * 64 + _), List.length_cons]
      ring
  induction k with
  | zero => simp [b64groups, b64number, Nat.mod_one]
  | succ k ih =>
    have hlt : (n >>> (6 * k)) % 64 < 64 := Nat.mod_lt _ (by norm_num)
    unfold b64number at ih ⊢
    rw [b64groups, List.foldl_cons, step, ih, b64groups_length, b64val_b64char hlt, Nat.shiftRight_eq_div_pow,
      pow_mul]
    norm_num
    rw [pow_succ, Nat.mod_mul]
    ring

end Sys2Proof.Machine
end

