-- ==== Sys2Proof/Laws/Numbers.lean ====
section
/-! SUPPORT. The small lemmas of the integer notation: `wrap`, `sgn`, `tdiv`, `clz` and the derived values of a
raw value, related to the library's own operations. -/

namespace Sys2Proof.Machine

/-- Rule R9: `uint(wrap_N(n)) = n mod 2^N`. -/
theorem wrap_toNat (N : Nat) (n : Int) : ((wrap N n).toNat : Int) = n % 2 ^ N := by
  have h : (0 : Int) ≤ n % 2 ^ N := Int.emod_nonneg _ (by positivity)
  have h2 : n % 2 ^ N < 2 ^ N := Int.emod_lt_of_pos _ (by positivity)
  have h3 : (n % 2 ^ N).toNat < 2 ^ N := by
    have : ((n % 2 ^ N).toNat : Int) < 2 ^ N := by omega
    exact_mod_cast this
  rw [wrap, BitVec.toNat_ofNat, Nat.mod_eq_of_lt h3, Int.toNat_of_nonneg h]

theorem wrap_eq_ofInt (N : Nat) (n : Int) : wrap N n = BitVec.ofInt N n := by
  apply BitVec.eq_of_toNat_eq
  have h := wrap_toNat N n
  rw [BitVec.toNat_ofInt]
  push_cast
  omega

/-- Rule R9: `sint(wrap_N(n)) = n` exactly when `n` is in the signed range. -/
theorem wrap_toInt_of_range {N : Nat} {n : Int} (hN : 0 < N) (h1 : -2 ^ (N - 1) ≤ n) (h2 : n < 2 ^ (N - 1)) :
    (wrap N n).toInt = n := by
  rw [wrap_eq_ofInt, BitVec.toInt_ofInt]
  have hp : (2 : Int) ^ N = 2 * 2 ^ (N - 1) := by
    obtain ⟨k, rfl⟩ : ∃ k, N = k + 1 := ⟨N - 1, by omega⟩
    rw [pow_succ, Nat.add_sub_cancel]; ring
  apply Int.bmod_eq_of_le_mul_two <;> push_cast <;> omega

/-- Wrapping a vector's own signed value gives the vector back. -/
theorem wrap_toInt {N : Nat} (v : BitVec N) : wrap N v.toInt = v := by
  rw [wrap_eq_ofInt, BitVec.ofInt_toInt]

/-- Two integers that differ by a multiple of `2^N` wrap to the same vector. -/
theorem wrap_congr {N : Nat} {m n : Int} (h : m % 2 ^ N = n % 2 ^ N) : wrap N m = wrap N n := by
  unfold wrap; rw [h]

theorem sgn_eq_sign (n : Int) : sgn n = n.sign := by
  unfold sgn
  split
  · rw [Int.sign_eq_neg_one_of_neg ‹_›]
  · split
    · subst_vars; rfl
    · rw [Int.sign_eq_one_of_pos (by omega)]

/-- Rule R10: the library's division truncated toward zero is `tdiv`. -/
theorem tdiv_eq_tdiv (a b : Int) : tdiv a b = Int.tdiv a b := by
  unfold tdiv
  rw [sgn_eq_sign, sgn_eq_sign]
  rcases lt_trichotomy a 0 with ha | ha | ha <;> rcases lt_trichotomy b 0 with hb | hb | hb <;>
    simp_all [Int.sign_eq_neg_one_of_neg, Int.sign_eq_one_of_pos]
  · lift -a to Nat using by omega with m hm
    lift -b to Nat using by omega with n hn
    obtain rfl : a = -m := by omega
    obtain rfl : b = -n := by omega
    simp [Int.tdiv_neg, Int.neg_tdiv]
  · lift -a to Nat using by omega with m hm
    lift b to Nat using by omega
    obtain rfl : a = -m := by omega
    simp [Int.neg_tdiv]
  · lift a to Nat using by omega
    lift -b to Nat using by omega with n hn
    obtain rfl : b = -n := by omega
    simp [Int.tdiv_neg]
  · lift a to Nat using by omega
    lift b to Nat using by omega
    simp

/-- Rule R10: `2^(bitlen n - 1) ≤ n < 2^(bitlen n)`. -/
theorem lt_two_pow_bitlen (n : Nat) : n < 2 ^ bitlen n := by
  unfold bitlen
  split
  · subst_vars; simp
  · exact Nat.lt_log2_self

theorem two_pow_bitlen_le {n : Nat} (h : n ≠ 0) : 2 ^ (bitlen n - 1) ≤ n := by
  unfold bitlen
  rw [if_neg h, Nat.add_sub_cancel]
  exact Nat.log2_self_le h

theorem bitlen_le {n k : Nat} (h : n < 2 ^ k) : bitlen n ≤ k := by
  unfold bitlen
  split
  · omega
  · exact (Nat.log2_lt ‹_›).2 h

/-- Rule R102: for the divisors the core has, at least 64 leading zeros in the `NW`-bit word. -/
theorem clz_ge {d : Nat} (h : d ≤ 2 ^ 127) : 64 ≤ clz 192 d := by
  have : bitlen d ≤ 128 := bitlen_le (lt_of_le_of_lt h (by norm_num))
  unfold clz; omega

/-- Rule R14: the magnitude is at most `2^127`. -/
theorem mag_le (v : Word) : mag v ≤ 2 ^ 127 := by
  have h1 := BitVec.le_toInt v
  have h2 := BitVec.toInt_lt (x := v)
  simp only [mag, raw, sint]
  norm_num at h1 h2 ⊢
  omega

/-- Rule R14: the magnitude is its two halves. -/
theorem mag_eq_halves (v : Word) : mag v = hiPart v * 2 ^ 64 + loPart v := by
  unfold hiPart loPart
  rw [Nat.shiftRight_eq_div_pow]
  omega

theorem loPart_lt (v : Word) : loPart v < 2 ^ 64 := Nat.mod_lt _ (by norm_num)

/-- Rule R14: the raw value is its sign times its magnitude. -/
theorem raw_eq_signed_mag (v : Word) : raw v = if isNegative v then -(mag v : Int) else mag v := by
  unfold isNegative mag
  by_cases h : raw v < 0
  · rw [if_pos (by simpa using h)]; omega
  · rw [if_neg (by simpa using h)]; omega

end Sys2Proof.Machine
end

