-- ==== Sys2Proof/Laws/State.lean ====
section
/-! SUPPORT. One lemma per field per update of State: what each shared operation writes and what it leaves.
Later proofs cite these and never unfold a record update. -/

namespace Sys2Proof.Machine

section Issue

variable (c : BitVec 8) (s : State)

@[simp] theorem State.issue_a : (s.issue c).a = s.a := rfl
@[simp] theorem State.issue_b : (s.issue c).b = s.b := rfl
@[simp] theorem State.issue_hs : (s.issue c).hs = s.hs := rfl
@[simp] theorem State.issue_le : (s.issue c).le = s.le := rfl
@[simp] theorem State.issue_ib : (s.issue c).ib = s.ib := rfl
@[simp] theorem State.issue_it : (s.issue c).it = s.it := rfl
@[simp] theorem State.issue_itlen : (s.issue c).itlen = s.itlen := rfl
@[simp] theorem State.issue_r : (s.issue c).r = s.r := rfl
@[simp] theorem State.issue_ir : (s.issue c).ir = s.ir := rfl
@[simp] theorem State.issue_sr : (s.issue c).sr = s.sr := rfl
@[simp] theorem State.issue_ob : (s.issue c).ob = s.ob := rfl
@[simp] theorem State.issue_oblen : (s.issue c).oblen = s.oblen := rfl
@[simp] theorem State.issue_ot : (s.issue c).ot = s.ot := rfl
@[simp] theorem State.issue_otlen : (s.issue c).otlen = s.otlen := rfl
@[simp] theorem State.issue_cmd : (s.issue c).cmd = c := rfl
@[simp] theorem State.issue_err : (s.issue c).err = s.err := rfl
@[simp] theorem State.issue_busy : (s.issue c).busy = 1 := rfl
@[simp] theorem State.issue_script : (s.issue c).script = s.script := rfl
@[simp] theorem State.issue_seen : (s.issue c).seen = s.seen := rfl

end Issue

section Succeed

variable (s : State)

@[simp] theorem State.succeed_a : s.succeed.a = s.a := rfl
@[simp] theorem State.succeed_b : s.succeed.b = s.b := rfl
@[simp] theorem State.succeed_hs : s.succeed.hs = s.hs := rfl
@[simp] theorem State.succeed_le : s.succeed.le = s.le := rfl
@[simp] theorem State.succeed_ib : s.succeed.ib = s.ib := rfl
@[simp] theorem State.succeed_it : s.succeed.it = s.it := rfl
@[simp] theorem State.succeed_itlen : s.succeed.itlen = s.itlen := rfl
@[simp] theorem State.succeed_r : s.succeed.r = s.r := rfl
@[simp] theorem State.succeed_ir : s.succeed.ir = s.ir := rfl
@[simp] theorem State.succeed_sr : s.succeed.sr = s.sr := rfl
@[simp] theorem State.succeed_ob : s.succeed.ob = s.ob := rfl
@[simp] theorem State.succeed_oblen : s.succeed.oblen = s.oblen := rfl
@[simp] theorem State.succeed_ot : s.succeed.ot = s.ot := rfl
@[simp] theorem State.succeed_otlen : s.succeed.otlen = s.otlen := rfl
@[simp] theorem State.succeed_cmd : s.succeed.cmd = s.cmd := rfl
@[simp] theorem State.succeed_err : s.succeed.err = 0 := rfl
@[simp] theorem State.succeed_busy : s.succeed.busy = 0 := rfl
@[simp] theorem State.succeed_script : s.succeed.script = s.script := rfl
@[simp] theorem State.succeed_seen : s.succeed.seen = s.seen := rfl

end Succeed

section Raise

variable (k : ErrorKind) (s : State)

@[simp] theorem State.raise_a : (s.raise k).a = s.a := rfl
@[simp] theorem State.raise_b : (s.raise k).b = s.b := rfl
@[simp] theorem State.raise_hs : (s.raise k).hs = s.hs := rfl
@[simp] theorem State.raise_le : (s.raise k).le = s.le := rfl
@[simp] theorem State.raise_ib : (s.raise k).ib = s.ib := rfl
@[simp] theorem State.raise_it : (s.raise k).it = s.it := rfl
@[simp] theorem State.raise_itlen : (s.raise k).itlen = s.itlen := rfl
@[simp] theorem State.raise_r : (s.raise k).r = s.r := rfl
@[simp] theorem State.raise_ir : (s.raise k).ir = s.ir := rfl
@[simp] theorem State.raise_sr : (s.raise k).sr = s.sr := rfl
@[simp] theorem State.raise_ob : (s.raise k).ob = s.ob := rfl
@[simp] theorem State.raise_oblen : (s.raise k).oblen = s.oblen := rfl
@[simp] theorem State.raise_ot : (s.raise k).ot = s.ot := rfl
@[simp] theorem State.raise_otlen : (s.raise k).otlen = s.otlen := rfl
@[simp] theorem State.raise_cmd : (s.raise k).cmd = s.cmd := rfl
@[simp] theorem State.raise_err : (s.raise k).err = k.code := rfl
@[simp] theorem State.raise_busy : (s.raise k).busy = 0 := rfl
@[simp] theorem State.raise_script : (s.raise k).script = s.script := rfl
@[simp] theorem State.raise_seen : (s.raise k).seen = s.seen := rfl

end Raise

section WriteR

variable (v : Word) (s : State)

@[simp] theorem State.writeR_a : (s.writeR v).a = s.a := rfl
@[simp] theorem State.writeR_b : (s.writeR v).b = s.b := rfl
@[simp] theorem State.writeR_hs : (s.writeR v).hs = s.hs := rfl
@[simp] theorem State.writeR_le : (s.writeR v).le = s.le := rfl
@[simp] theorem State.writeR_ib : (s.writeR v).ib = s.ib := rfl
@[simp] theorem State.writeR_it : (s.writeR v).it = s.it := rfl
@[simp] theorem State.writeR_itlen : (s.writeR v).itlen = s.itlen := rfl
@[simp] theorem State.writeR_r : (s.writeR v).r = v := rfl
@[simp] theorem State.writeR_ir : (s.writeR v).ir = s.ir := rfl
@[simp] theorem State.writeR_sr : (s.writeR v).sr = s.sr := rfl
@[simp] theorem State.writeR_ob : (s.writeR v).ob = s.ob := rfl
@[simp] theorem State.writeR_oblen : (s.writeR v).oblen = s.oblen := rfl
@[simp] theorem State.writeR_ot : (s.writeR v).ot = s.ot := rfl
@[simp] theorem State.writeR_otlen : (s.writeR v).otlen = s.otlen := rfl
@[simp] theorem State.writeR_cmd : (s.writeR v).cmd = s.cmd := rfl
@[simp] theorem State.writeR_err : (s.writeR v).err = s.err := rfl
@[simp] theorem State.writeR_busy : (s.writeR v).busy = s.busy := rfl
@[simp] theorem State.writeR_script : (s.writeR v).script = s.script := rfl
@[simp] theorem State.writeR_seen : (s.writeR v).seen = s.seen := rfl

end WriteR

section WriteIR

variable (v : IWord) (s : State)

@[simp] theorem State.writeIR_a : (s.writeIR v).a = s.a := rfl
@[simp] theorem State.writeIR_b : (s.writeIR v).b = s.b := rfl
@[simp] theorem State.writeIR_hs : (s.writeIR v).hs = s.hs := rfl
@[simp] theorem State.writeIR_le : (s.writeIR v).le = s.le := rfl
@[simp] theorem State.writeIR_ib : (s.writeIR v).ib = s.ib := rfl
@[simp] theorem State.writeIR_it : (s.writeIR v).it = s.it := rfl
@[simp] theorem State.writeIR_itlen : (s.writeIR v).itlen = s.itlen := rfl
@[simp] theorem State.writeIR_r : (s.writeIR v).r = s.r := rfl
@[simp] theorem State.writeIR_ir : (s.writeIR v).ir = v := rfl
@[simp] theorem State.writeIR_sr : (s.writeIR v).sr = s.sr := rfl
@[simp] theorem State.writeIR_ob : (s.writeIR v).ob = s.ob := rfl
@[simp] theorem State.writeIR_oblen : (s.writeIR v).oblen = s.oblen := rfl
@[simp] theorem State.writeIR_ot : (s.writeIR v).ot = s.ot := rfl
@[simp] theorem State.writeIR_otlen : (s.writeIR v).otlen = s.otlen := rfl
@[simp] theorem State.writeIR_cmd : (s.writeIR v).cmd = s.cmd := rfl
@[simp] theorem State.writeIR_err : (s.writeIR v).err = s.err := rfl
@[simp] theorem State.writeIR_busy : (s.writeIR v).busy = s.busy := rfl
@[simp] theorem State.writeIR_script : (s.writeIR v).script = s.script := rfl
@[simp] theorem State.writeIR_seen : (s.writeIR v).seen = s.seen := rfl

end WriteIR

section WriteSR

variable (v : BitVec 2) (s : State)

@[simp] theorem State.writeSR_a : (s.writeSR v).a = s.a := rfl
@[simp] theorem State.writeSR_b : (s.writeSR v).b = s.b := rfl
@[simp] theorem State.writeSR_hs : (s.writeSR v).hs = s.hs := rfl
@[simp] theorem State.writeSR_le : (s.writeSR v).le = s.le := rfl
@[simp] theorem State.writeSR_ib : (s.writeSR v).ib = s.ib := rfl
@[simp] theorem State.writeSR_it : (s.writeSR v).it = s.it := rfl
@[simp] theorem State.writeSR_itlen : (s.writeSR v).itlen = s.itlen := rfl
@[simp] theorem State.writeSR_r : (s.writeSR v).r = s.r := rfl
@[simp] theorem State.writeSR_ir : (s.writeSR v).ir = s.ir := rfl
@[simp] theorem State.writeSR_sr : (s.writeSR v).sr = v := rfl
@[simp] theorem State.writeSR_ob : (s.writeSR v).ob = s.ob := rfl
@[simp] theorem State.writeSR_oblen : (s.writeSR v).oblen = s.oblen := rfl
@[simp] theorem State.writeSR_ot : (s.writeSR v).ot = s.ot := rfl
@[simp] theorem State.writeSR_otlen : (s.writeSR v).otlen = s.otlen := rfl
@[simp] theorem State.writeSR_cmd : (s.writeSR v).cmd = s.cmd := rfl
@[simp] theorem State.writeSR_err : (s.writeSR v).err = s.err := rfl
@[simp] theorem State.writeSR_busy : (s.writeSR v).busy = s.busy := rfl
@[simp] theorem State.writeSR_script : (s.writeSR v).script = s.script := rfl
@[simp] theorem State.writeSR_seen : (s.writeSR v).seen = s.seen := rfl

end WriteSR

section WriteBytes

variable (l : List Byte) (s : State)

@[simp] theorem State.writeBytes_a : (s.writeBytes l).a = s.a := rfl
@[simp] theorem State.writeBytes_b : (s.writeBytes l).b = s.b := rfl
@[simp] theorem State.writeBytes_hs : (s.writeBytes l).hs = s.hs := rfl
@[simp] theorem State.writeBytes_le : (s.writeBytes l).le = s.le := rfl
@[simp] theorem State.writeBytes_ib : (s.writeBytes l).ib = s.ib := rfl
@[simp] theorem State.writeBytes_it : (s.writeBytes l).it = s.it := rfl
@[simp] theorem State.writeBytes_itlen : (s.writeBytes l).itlen = s.itlen := rfl
@[simp] theorem State.writeBytes_r : (s.writeBytes l).r = s.r := rfl
@[simp] theorem State.writeBytes_ir : (s.writeBytes l).ir = s.ir := rfl
@[simp] theorem State.writeBytes_sr : (s.writeBytes l).sr = s.sr := rfl
@[simp] theorem State.writeBytes_ob : (s.writeBytes l).ob = buffer 17 l := rfl
@[simp] theorem State.writeBytes_oblen : (s.writeBytes l).oblen = BitVec.ofNat 5 l.length := rfl
@[simp] theorem State.writeBytes_ot : (s.writeBytes l).ot = s.ot := rfl
@[simp] theorem State.writeBytes_otlen : (s.writeBytes l).otlen = s.otlen := rfl
@[simp] theorem State.writeBytes_cmd : (s.writeBytes l).cmd = s.cmd := rfl
@[simp] theorem State.writeBytes_err : (s.writeBytes l).err = s.err := rfl
@[simp] theorem State.writeBytes_busy : (s.writeBytes l).busy = s.busy := rfl
@[simp] theorem State.writeBytes_script : (s.writeBytes l).script = s.script := rfl
@[simp] theorem State.writeBytes_seen : (s.writeBytes l).seen = s.seen := rfl

end WriteBytes

section WriteText

variable (t : List Byte) (s : State)

@[simp] theorem State.writeText_a : (s.writeText t).a = s.a := rfl
@[simp] theorem State.writeText_b : (s.writeText t).b = s.b := rfl
@[simp] theorem State.writeText_hs : (s.writeText t).hs = s.hs := rfl
@[simp] theorem State.writeText_le : (s.writeText t).le = s.le := rfl
@[simp] theorem State.writeText_ib : (s.writeText t).ib = s.ib := rfl
@[simp] theorem State.writeText_it : (s.writeText t).it = s.it := rfl
@[simp] theorem State.writeText_itlen : (s.writeText t).itlen = s.itlen := rfl
@[simp] theorem State.writeText_r : (s.writeText t).r = s.r := rfl
@[simp] theorem State.writeText_ir : (s.writeText t).ir = s.ir := rfl
@[simp] theorem State.writeText_sr : (s.writeText t).sr = s.sr := rfl
@[simp] theorem State.writeText_ob : (s.writeText t).ob = s.ob := rfl
@[simp] theorem State.writeText_oblen : (s.writeText t).oblen = s.oblen := rfl
@[simp] theorem State.writeText_ot : (s.writeText t).ot = buffer 34 t := rfl
@[simp] theorem State.writeText_otlen : (s.writeText t).otlen = BitVec.ofNat 6 t.length := rfl
@[simp] theorem State.writeText_cmd : (s.writeText t).cmd = s.cmd := rfl
@[simp] theorem State.writeText_err : (s.writeText t).err = s.err := rfl
@[simp] theorem State.writeText_busy : (s.writeText t).busy = s.busy := rfl
@[simp] theorem State.writeText_script : (s.writeText t).script = s.script := rfl
@[simp] theorem State.writeText_seen : (s.writeText t).seen = s.seen := rfl

end WriteText

section Reset

variable (s : State)

@[simp] theorem State.resetRegs_a : s.resetRegs.a = 0 := rfl
@[simp] theorem State.resetRegs_b : s.resetRegs.b = 0 := rfl
@[simp] theorem State.resetRegs_hs : s.resetRegs.hs = 0 := rfl
@[simp] theorem State.resetRegs_le : s.resetRegs.le = 0 := rfl
@[simp] theorem State.resetRegs_ib : s.resetRegs.ib = Vector.replicate 17 0 := rfl
@[simp] theorem State.resetRegs_it : s.resetRegs.it = Vector.replicate 127 0 := rfl
@[simp] theorem State.resetRegs_itlen : s.resetRegs.itlen = 0 := rfl
@[simp] theorem State.resetRegs_r : s.resetRegs.r = 0 := rfl
@[simp] theorem State.resetRegs_ir : s.resetRegs.ir = 0 := rfl
@[simp] theorem State.resetRegs_sr : s.resetRegs.sr = 0 := rfl
@[simp] theorem State.resetRegs_ob : s.resetRegs.ob = Vector.replicate 17 0 := rfl
@[simp] theorem State.resetRegs_oblen : s.resetRegs.oblen = 0 := rfl
@[simp] theorem State.resetRegs_ot : s.resetRegs.ot = Vector.replicate 34 0 := rfl
@[simp] theorem State.resetRegs_otlen : s.resetRegs.otlen = 0 := rfl
@[simp] theorem State.resetRegs_cmd : s.resetRegs.cmd = 0 := rfl
@[simp] theorem State.resetRegs_err : s.resetRegs.err = 0 := rfl
@[simp] theorem State.resetRegs_busy : s.resetRegs.busy = 0 := rfl
@[simp] theorem State.resetRegs_script : s.resetRegs.script = s.script := rfl
@[simp] theorem State.resetRegs_seen : s.resetRegs.seen = s.seen := rfl

end Reset

section ApplyWrite

variable (w : OperandWrite) (s : State)

/-! Rule R52: no write port reaches a result, control or status register. -/

@[simp] theorem State.applyWrite_r : (s.applyWrite w).r = s.r := by cases w <;> rfl
@[simp] theorem State.applyWrite_ir : (s.applyWrite w).ir = s.ir := by cases w <;> rfl
@[simp] theorem State.applyWrite_sr : (s.applyWrite w).sr = s.sr := by cases w <;> rfl
@[simp] theorem State.applyWrite_ob : (s.applyWrite w).ob = s.ob := by cases w <;> rfl
@[simp] theorem State.applyWrite_oblen : (s.applyWrite w).oblen = s.oblen := by cases w <;> rfl
@[simp] theorem State.applyWrite_ot : (s.applyWrite w).ot = s.ot := by cases w <;> rfl
@[simp] theorem State.applyWrite_otlen : (s.applyWrite w).otlen = s.otlen := by cases w <;> rfl
@[simp] theorem State.applyWrite_cmd : (s.applyWrite w).cmd = s.cmd := by cases w <;> rfl
@[simp] theorem State.applyWrite_err : (s.applyWrite w).err = s.err := by cases w <;> rfl
@[simp] theorem State.applyWrite_busy : (s.applyWrite w).busy = s.busy := by cases w <;> rfl
@[simp] theorem State.applyWrite_script : (s.applyWrite w).script = s.script := by cases w <;> rfl
@[simp] theorem State.applyWrite_seen : (s.applyWrite w).seen = s.seen := by cases w <;> rfl

end ApplyWrite

end Sys2Proof.Machine
end

