-- ==== Sys2Proof/Laws/Ops.lean ====
section
/-! SUPPORT. For each shared operation, once, everything it can do: how a command ends, what a command code does,
what a host action does, what a step does. -/

namespace Sys2Proof.Machine

/-- Rules R13, R55: a command that can raise either writes its result and succeeds, or raises and writes none. -/
theorem finish_next {α : Type} {s t : State} {write : α → State → State} {x : Except ErrorKind α}
    (h : finish s write x = .next t) :
    (∃ v, x = .ok v ∧ t = (write v s).succeed) ∨ (∃ k, x = .error k ∧ t = s.raise k) := by
  cases x with
  | ok v => exact .inl ⟨v, rfl, by simpa [finish] using h.symm⟩
  | error k => exact .inr ⟨k, rfl, by simpa [finish] using h.symm⟩

theorem finish_is_next {α : Type} (s : State) (write : α → State → State) (x : Except ErrorKind α) :
    ∃ t, finish s write x = .next t := by
  cases x <;> exact ⟨_, rfl⟩

/-- Rules R55, R244: every command completes, and `BUSY` is 0 when it has; the host's own fields stay. -/
theorem exec_completes (i : Instr) (s : State) :
    ∃ t, exec i s = .next t ∧ t.busy = 0 ∧ t.script = s.script ∧ t.seen = s.seen := by
  have raising : ∀ {α : Type} (write : α → State → State) (x : Except ErrorKind α),
      (∀ v, (write v s).script = s.script ∧ (write v s).seen = s.seen) →
      ∃ t, finish s write x = .next t ∧ t.busy = 0 ∧ t.script = s.script ∧ t.seen = s.seen := by
    intro α write x h
    cases x with
    | ok v => exact ⟨_, rfl, rfl, (h v).1, (h v).2⟩
    | error k => exact ⟨_, rfl, rfl, rfl, rfl⟩
  cases i
  case cons | quo | fromsm | fromhex | fromb64 => exact raising State.writeR _ fun _ => ⟨rfl, rfl⟩
  case tohexp => exact raising State.writeText _ fun _ => ⟨rfl, rfl⟩
  all_goals exact ⟨_, rfl, rfl, rfl, rfl⟩

/-- Rule R211: the codes of the kinds are 1 to 6. -/
theorem code_ne_zero (k : ErrorKind) : k.code ≠ 0 := by cases k <;> decide

theorem code_ne_seven (k : ErrorKind) : k.code ≠ 7 := by cases k <;> decide

/-- Everything a code can do: a command of the table runs, any other code raises `IllegalOp` (rules R72, R73). -/
theorem runCode_cases (c : BitVec 8) (s : State) :
    (∃ i, decode c = .ok i ∧ runCode c s = exec i s) ∨
    (decode c = .error (.reserved c) ∧ runCode c s = .next (s.raise .illegalOp)) := by
  unfold runCode
  cases h : decode c with
  | ok i => exact .inl ⟨i, rfl, rfl⟩
  | error e =>
    obtain ⟨c'⟩ := e
    refine .inr ⟨?_, rfl⟩
    unfold decode at h
    split at h
    · cases h
    · rw [← h]

/-- A step with no action of the host to come is idle (rule R243). -/
theorem step_idle {s : State} (h : s.script = []) : step s = .next s := by
  unfold step stepHost; rw [h]

/-- A step takes the host's next action (rule R60). -/
theorem step_act {s : State} {act : HostAction} {rest : List HostAction} (h : s.script = act :: rest) :
    step s = hostAct act { s with script := rest } := by
  unfold step stepHost; rw [h]

/-- Everything a step that answers a next state can have done. -/
theorem step_cases {s t : State} (h : step s = .next t) :
    (s.script = [] ∧ t = s) ∨
    (∃ act rest, s.script = act :: rest ∧ hostAct act { s with script := rest } = .next t) := by
  cases hs : s.script with
  | nil => rw [step_idle hs] at h; cases h; exact .inl ⟨rfl, rfl⟩
  | cons act rest => rw [step_act hs] at h; exact .inr ⟨act, rest, rfl, h⟩

/-- Everything a host action that answers a next state can have done (rules R51, R245). -/
theorem hostAct_cases {act : HostAction} {s t : State} (h : hostAct act s = .next t) :
    (∃ w, act = .wr w ∧ s.busy ≠ 1 ∧ t = s.applyWrite w) ∨
    (∃ x, act = .rd x ∧ t = { s with seen := s.seen ++ [s.read x] }) ∨
    (∃ c, act = .cmd c ∧ s.busy ≠ 1 ∧ runCode c (s.issue c) = .next t) ∨
    (act = .reset ∧ t = s.resetRegs) := by
  cases act with
  | wr w =>
    simp only [hostAct] at h
    split at h
    · cases h
    · exact .inl ⟨w, rfl, ‹_›, by simpa using h.symm⟩
  | rd x => exact .inr (.inl ⟨x, rfl, by simpa [hostAct] using h.symm⟩)
  | cmd c =>
    simp only [hostAct] at h
    split at h
    · cases h
    · exact .inr (.inr (.inl ⟨c, rfl, ‹_›, h⟩))
  | reset => exact .inr (.inr (.inr ⟨rfl, by simpa [hostAct] using h.symm⟩))

end Sys2Proof.Machine
end

