-- ==== Sys2Proof/Laws/PerInstr.lean ====
section
/-! SUPPORT. What holds of every command as syntax, one lemma per constructor (rules R70, R71, R72). -/

namespace Sys2Proof.Laws.Format

/-- Rules R70, R71, R72: the command is well-formed, its code has its unit, one of 1 to 6, in bits 7:4 and its function in
bits 3:0, and that code decodes to it, alone and as the first byte of a string. -/
def Statement (i : Instr) : Prop :=
  i.wf = true ∧ 1 ≤ i.unit.toNat ∧ i.unit.toNat ≤ 6 ∧
  (encode i).extractLsb' 4 4 = i.unit ∧ (encode i).extractLsb' 0 4 = i.fn ∧
  decode (encode i) = .ok i ∧ decodeTableWord 8 (encode i).toNat = some i ∧
  ∀ rest : List Byte, decodeBytes (encode i :: rest) = some (.ok i, rest)

theorem cons : Statement .cons :=
  ⟨by decide, by decide, by decide, by decide, by decide, by decide, by decide, fun _ => rfl⟩

theorem add : Statement .add :=
  ⟨by decide, by decide, by decide, by decide, by decide, by decide, by decide, fun _ => rfl⟩

theorem sub : Statement .sub :=
  ⟨by decide, by decide, by decide, by decide, by decide, by decide, by decide, fun _ => rfl⟩

theorem quo : Statement .quo :=
  ⟨by decide, by decide, by decide, by decide, by decide, by decide, by decide, fun _ => rfl⟩

theorem neg : Statement .neg :=
  ⟨by decide, by decide, by decide, by decide, by decide, by decide, by decide, fun _ => rfl⟩

theorem cmp : Statement .cmp :=
  ⟨by decide, by decide, by decide, by decide, by decide, by decide, by decide, fun _ => rfl⟩

theorem sign : Statement .sign :=
  ⟨by decide, by decide, by decide, by decide, by decide, by decide, by decide, fun _ => rfl⟩

theorem isneg : Statement .isneg :=
  ⟨by decide, by decide, by decide, by decide, by decide, by decide, by decide, fun _ => rfl⟩

theorem iszero : Statement .iszero :=
  ⟨by decide, by decide, by decide, by decide, by decide, by decide, by decide, fun _ => rfl⟩

theorem mul : Statement .mul :=
  ⟨by decide, by decide, by decide, by decide, by decide, by decide, by decide, fun _ => rfl⟩

theorem mulint : Statement .mulint :=
  ⟨by decide, by decide, by decide, by decide, by decide, by decide, by decide, fun _ => rfl⟩

theorem tob16 : Statement .tob16 :=
  ⟨by decide, by decide, by decide, by decide, by decide, by decide, by decide, fun _ => rfl⟩

theorem tosm : Statement .tosm :=
  ⟨by decide, by decide, by decide, by decide, by decide, by decide, by decide, fun _ => rfl⟩

theorem fromsm : Statement .fromsm :=
  ⟨by decide, by decide, by decide, by decide, by decide, by decide, by decide, fun _ => rfl⟩

theorem tohex : Statement .tohex :=
  ⟨by decide, by decide, by decide, by decide, by decide, by decide, by decide, fun _ => rfl⟩

theorem tohexp : Statement .tohexp :=
  ⟨by decide, by decide, by decide, by decide, by decide, by decide, by decide, fun _ => rfl⟩

theorem fromhex : Statement .fromhex :=
  ⟨by decide, by decide, by decide, by decide, by decide, by decide, by decide, fun _ => rfl⟩

theorem tob64 : Statement .tob64 :=
  ⟨by decide, by decide, by decide, by decide, by decide, by decide, by decide, fun _ => rfl⟩

theorem fromb64 : Statement .fromb64 :=
  ⟨by decide, by decide, by decide, by decide, by decide, by decide, by decide, fun _ => rfl⟩

end Sys2Proof.Laws.Format
end

