-- ==== Sys2Proof/Laws/Pins.lean ====
section
/-! SUPPORT. The operand writes of one clock edge (rule R244): each register has one port, so the writes commute; and
what a list of `WR` actions does to an idle core. -/

namespace Sys2Proof.Machine

/-- Rule R244: the writes of one edge are of different registers, one port each, so two of them commute. -/
theorem applyWrite_comm_of_ports {p : PinsIn} {v w : OperandWrite} (hv : v ∈ p.writes) (hw : w ∈ p.writes)
    (s : State) : (s.applyWrite v).applyWrite w = (s.applyWrite w).applyWrite v := by
  simp only [PinsIn.writes, List.mem_append, Option.mem_toList, Option.map_eq_some_iff] at hv hw
  cases v <;> cases w <;> first
    | rfl
    | (simp at hv hw; simp_all)

/-- Rules R51, R60: `WR` actions on an idle core, one after another, are its writes one after another. -/
theorem hostActs_writes {l : List OperandWrite} {s : State} (h : s.busy = 0) :
    hostActs (l.map HostAction.wr) s = .next (l.foldl (fun s w => s.applyWrite w) s) := by
  induction l generalizing s with
  | nil => rfl
  | cons w rest ih =>
    have hb : (s.applyWrite w).busy = 0 := by rw [State.applyWrite_busy, h]
    simp only [List.map_cons, hostActs, hostAct, h, List.foldl_cons]
    exact ih hb

end Sys2Proof.Machine
end

