-- ==== Sys2Proof/Laws/Run.lean ====
section
/-! SUPPORT. Runs of the machine the host reads (`Sys2Proof.core`), one step at a time. -/

namespace Sys2Proof.Machine

/-- No step runs no action. -/
theorem run_zero (M : Host.Core) (s : M.State) : M.run 0 s = .next s := rfl

/-- A run whose first step answers a next state goes on from it. -/
theorem run_succ_next (M : Host.Core) {s t : M.State} {k : Nat} (h : M.step s = .next t) :
    M.run (k + 1) s = M.run k t := by
  rw [Host.Core.run, h]

/-- A run whose first step is refused is refused. -/
theorem run_succ_refused (M : Host.Core) {s : M.State} {r : M.Refusal} {k : Nat} (h : M.step s = .refused r) :
    M.run (k + 1) s = .refused r := by
  rw [Host.Core.run, h]

/-- Rule R60: the actions of two lists joined are those of the first and then, where it answers a next state, those
of the second. -/
theorem hostActs_append (l₁ l₂ : List HostAction) (s : State) :
    hostActs (l₁ ++ l₂) s = match hostActs l₁ s with
      | .next t => hostActs l₂ t
      | .fault k => .fault k
      | .refused k => .refused k := by
  induction l₁ generalizing s with
  | nil => rfl
  | cons act rest ih =>
    simp only [List.cons_append, hostActs]
    cases hostAct act s with
    | next t => exact ih t
    | fault k => rfl
    | refused k => rfl

end Sys2Proof.Machine
end

