-- ==== Sys2Proof/Laws/Script.lean ====
section
/-! SUPPORT. The host script's lines: a line has an expansion exactly when it is well-formed (rules R52, R74, R75), and
what running one line at a time does. -/

namespace Sys2Proof.Machine

/-- Rules R52, R74: a `WR` line stands for actions exactly when it is well-formed. -/
theorem writesOf_isSome_iff (x : Reg) (v : ScriptValue) :
    (writesOf x v).isSome = true ↔ (ScriptLine.wr x v).wf = true := by
  cases v with
  | num n =>
    simp only [writesOf, writeOf, Option.isSome_map]
    cases h : (ScriptLine.wr x (.num n)).wf
    · simp
    · cases x <;> first
        | rfl
        | (exact absurd h (by simp [ScriptLine.wf, Reg.cls, ScriptValue.fits, Reg.isBuffer]))
  | text t =>
    simp only [writesOf]
    cases (ScriptLine.wr x (.text t)).wf <;> simp
  | bytes l =>
    simp only [writesOf, writeOf, Option.isSome_map]
    cases h : (ScriptLine.wr x (.bytes l)).wf
    · simp
    · cases x <;> first
        | rfl
        | (exact absurd h (by simp [ScriptLine.wf, Reg.cls, ScriptValue.fits, Reg.isBuffer]))

/-- Rule R75: the pairs of registers that `MV` may name, by their classes and widths, are those it has a copy for. -/
theorem mv_isSome_iff (s : State) (dst src : Reg) :
    ((ScriptLine.mv dst src).expand s).isSome = true ↔ (ScriptLine.mv dst src).wf = true := by
  simp only [ScriptLine.expand, Option.isSome_map]
  cases dst <;> cases src <;> rfl

/-- Rules R52, R74, R75: a script line has an expansion exactly when it is well-formed, in every state. -/
theorem expand_isSome_iff (s : State) (line : ScriptLine) :
    (line.expand s).isSome = true ↔ line.wf = true := by
  cases line with
  | wr x v => exact writesOf_isSome_iff x v
  | mv dst src => exact mv_isSome_iff s dst src
  | ldzero x =>
    simp only [ScriptLine.expand]
    rw [writesOf_isSome_iff]
    cases x <;> decide
  | ldone x =>
    simp only [ScriptLine.expand]
    cases x <;> decide
  | rd x => simp [ScriptLine.expand, ScriptLine.wf]
  | cmd i => simp [ScriptLine.expand, ScriptLine.wf, Instr.wf]
  | code c => simp [ScriptLine.expand, ScriptLine.wf]
  | reset => simp [ScriptLine.expand, ScriptLine.wf]
  | mvt => simp [ScriptLine.expand, ScriptLine.wf]
  | mvb => simp [ScriptLine.expand, ScriptLine.wf]

/-- A script's first line whose actions answer a next state: the rest runs from there. -/
theorem runScript_cons {line : ScriptLine} {rest : List ScriptLine} {s t : State} {acts : List HostAction}
    (he : line.expand s = some acts) (ha : hostActs acts s = .next t) :
    runScript (line :: rest) s = runScript rest t := by
  simp only [runScript, he, ha]

end Sys2Proof.Machine
end

