-- ==== Sys2Proof/Laws/Text.lean ====
section
/-! SUPPORT. The texts the formatters make: their lengths and characters (rules R175, R178, R181, R197). -/

namespace Sys2Proof.Machine

/-- Rule R11: the length of a half-open slice. -/
theorem slice_length {s : List Byte} {i j : Nat} (h : j ≤ s.length) : (slice s i j).length = j - i := by
  simp only [slice, List.length_drop, List.length_take]
  omega

/-- Rule R178: the length of a text at a legal precision, and its bounds 5 and 34. -/
theorem hexText_length {s : List Byte} {hs le : Nat} (hl : s.length = 17) (h : legalPrecision hs le = true) :
    (hexText s hs le).length = (if s.getD 0 0 = 0x01#8 then 1 else 0) + 2 * (9 - hs) + 1 + 2 * (le - 9) ∧
    5 ≤ (hexText s hs le).length ∧ (hexText s hs le).length ≤ 34 := by
  simp only [legalPrecision, decide_eq_true_eq] at h
  have h1 : (slice s hs 9).length = 9 - hs := slice_length (by omega)
  have h2 : (slice s 9 le).length = le - 9 := slice_length (by omega)
  have h3 : (hexText s hs le).length =
      (if s.getD 0 0 = 0x01#8 then 1 else 0) + 2 * (9 - hs) + 1 + 2 * (le - 9) := by
    unfold hexText
    rw [List.length_append, List.length_append, List.length_append, hexenc_length, hexenc_length, h1, h2]
    split <;> rfl
  refine ⟨h3, ?_, ?_⟩ <;> rw [h3] <;> split <;> omega

/-- Rule R176: a hex digit is a printable ASCII character. -/
theorem hexDigit_printable (c : Byte) (h : (hexVal c).isSome = true) : 0x20 < c.toNat ∧ c.toNat < 0x80 := by
  unfold hexVal at h
  split at h
  · omega
  · split at h
    · omega
    · split at h
      · omega
      · cases h

/-- Rule R175: every character of a hex text is printable ASCII. -/
theorem hexText_printable (s : List Byte) (hs le : Nat) :
    ∀ c ∈ hexText s hs le, 0x20 < c.toNat ∧ c.toNat < 0x80 := by
  intro c hc
  simp only [hexText, List.mem_append, List.mem_singleton] at hc
  rcases hc with ((hc | hc) | rfl) | hc
  · split at hc
    · rw [List.mem_singleton.mp hc]; decide
    · cases hc
  · exact hexDigit_printable c (hexenc_isDigit _ c hc)
  · decide
  · exact hexDigit_printable c (hexenc_isDigit _ c hc)

/-- Rule R181: the automatic pair is always legal. -/
theorem autoPrecision_legal (s : List Byte) : legalPrecision (autoHigh s) (autoLow s) = true := by
  have h1 : 1 ≤ autoHigh s ∧ autoHigh s ≤ 8 := by
    unfold autoHigh
    cases h : List.find? _ _ with
    | none => simp
    | some x =>
      have := List.mem_of_find?_eq_some h
      simp only [List.mem_cons, List.not_mem_nil, or_false] at this
      simp only [Option.getD_some]
      omega
  have h2 : 10 ≤ autoLow s ∧ autoLow s ≤ 17 := by
    unfold autoLow
    split
    · rename_i x h
      have := List.mem_of_find?_eq_some h
      simp only [List.mem_cons, List.not_mem_nil, or_false] at this
      omega
    · omega
  simp only [legalPrecision, decide_eq_true_eq]
  omega

/-- Rule R196: a character of the alphabet is printable ASCII. -/
theorem b64char_printable {k : Nat} (h : k < 64) : 0x20 < (b64char k).toNat ∧ (b64char k).toNat < 0x80 := by
  interval_cases k <;> decide

/-- Rule R197: every character of a base64 text is printable ASCII. -/
theorem b64enc17_printable (s : List Byte) : ∀ c ∈ b64enc17 s, 0x20 < c.toNat ∧ c.toNat < 0x80 := by
  have groups : ∀ k n : Nat, ∀ c ∈ b64groups k n, 0x20 < c.toNat ∧ c.toNat < 0x80 := by
    intro k n
    induction k with
    | zero => intro c hc; cases hc
    | succ k ih =>
      intro c hc
      rcases List.mem_cons.mp hc with rfl | hc
      · exact b64char_printable (Nat.mod_lt _ (by norm_num))
      · exact ih c hc
  intro c hc
  rcases List.mem_append.mp hc with hc | hc
  · exact groups _ _ c hc
  · rw [List.mem_singleton.mp hc]; decide

end Sys2Proof.Machine
end

