-- ==== Sys2Proof/Tests/Slice0.lean ====
section
/-! SUPPORT. Tests. Every expected value is written out from the spec (the rule or the section of 95_test_vectors.md is
named), none from the model. The last part shows, for each statement with hypotheses, states and operands that meet
them. -/

namespace Sys2Proof.Tests

set_option Elab.async false

open Sys2Proof Sys2Proof.Machine Sys2Proof.Safety

/-! ## Helpers -/

/-- The state after reset with two operands written. -/
def ab (a b : Word) : State := { State.reset with a := a, b := b }

/-- The state after reset with an input text written. -/
def withText (t : List Byte) : State :=
  { State.reset with it := buffer 127 t, itlen := BitVec.ofNat 7 t.length }

/-- The state after reset with an input byte string written. -/
def withBytes (l : List Byte) : State := { State.reset with ib := buffer 17 l }

/-- The ASCII codes of a text. -/
def ascii (t : String) : List Byte := t.toList.map fun c => BitVec.ofNat 8 c.toNat

/-- The next state of an outcome, if it is one. -/
def after (o : Host.Outcome State Fault Refusal) : Option State :=
  match o with
  | .next t => some t
  | .fault _ => none
  | .refused _ => none

/-- What a command leaves in `R` and `ERR`. -/
def rOf (i : Instr) (s : State) : Option (Word × BitVec 3) := (after (exec i s)).map fun t => (t.r, t.err)

/-- What a command leaves in `SR` and `ERR`. -/
def srOf (i : Instr) (s : State) : Option (BitVec 2 × BitVec 3) := (after (exec i s)).map fun t => (t.sr, t.err)

/-- What a command leaves as output text, and in `ERR`. -/
def textOf (i : Instr) (s : State) : Option (List Byte × BitVec 3) :=
  (after (exec i s)).map fun t => (t.outputText, t.err)

/-- What a command leaves as output bytes, and in `ERR`. -/
def bytesOf (i : Instr) (s : State) : Option (List Byte × BitVec 3) :=
  (after (exec i s)).map fun t => (t.outputBytes, t.err)

/-! ## Well-formedness: each check refuses an ill-formed term -/

/-- Rule R52: a result register has no write port. -/
theorem test_wf_write_to_result_register : (ScriptLine.wr .r (.num 0)).wf = false := by decide

/-- Rule R52: nor have `CMD`, `ERR` and `BUSY`. -/
theorem test_wf_write_to_status_register :
    (ScriptLine.wr .err (.num 0)).wf = false ∧ (ScriptLine.wr .busy (.num 0)).wf = false ∧
      (ScriptLine.wr .cmd (.num 0)).wf = false := by decide

/-- Rule R52: `ITLEN` takes 0 to 127, `HS` takes 0 to 255. -/
theorem test_wf_number_too_wide :
    (ScriptLine.wr .itlen (.num 128)).wf = false ∧ (ScriptLine.wr .itlen (.num 127)).wf = true ∧
      (ScriptLine.wr .hs (.num 256)).wf = false ∧ (ScriptLine.wr .hs (.num 255)).wf = true := by decide

/-- Rules R51, R74: a number is no value of a byte buffer, a text none of `IB`. -/
theorem test_wf_kind_of_value :
    (ScriptLine.wr .ib (.num 0)).wf = false ∧ (ScriptLine.wr .ib (.text [0x41])).wf = false ∧
      (ScriptLine.wr .a (.bytes [0])).wf = false := by decide

/-- Rule R51: a byte string has the register's length. -/
theorem test_wf_byte_string_length :
    (ScriptLine.wr .ib (.bytes (List.replicate 16 0))).wf = false ∧
      (ScriptLine.wr .ib (.bytes (List.replicate 17 0))).wf = true := by decide +kernel

/-- Rule R25: a text has at most 127 characters, and rule R74: they are ASCII. -/
theorem test_wf_text :
    (ScriptLine.wr .it (.text (List.replicate 128 0x41))).wf = false ∧
      (ScriptLine.wr .it (.text (List.replicate 127 0x41))).wf = true ∧
      (ScriptLine.wr .it (.text [0x80])).wf = false := by decide +kernel

/-- Rule R75: `MV` copies a result register to an operand register of the same width. -/
theorem test_wf_mv :
    (ScriptLine.mv .a .ir).wf = false ∧ (ScriptLine.mv .a .b).wf = false ∧ (ScriptLine.mv .r .r).wf = false ∧
      (ScriptLine.mv .it .ot).wf = false ∧ (ScriptLine.mv .b .r).wf = true := by decide

/-- Rule R75: `LDZERO` and `LDONE` load an operand register; the value `ONE` has 128 bits. -/
theorem test_wf_load_constant :
    (ScriptLine.ldzero .r).wf = false ∧ (ScriptLine.ldzero .it).wf = false ∧ (ScriptLine.ldone .hs).wf = false ∧
      (ScriptLine.ldone .a).wf = true := by decide

/-! ## Decoding: every command's word, bit by bit, from the binary column of rule R72 -/

theorem test_decode_unit1 : decodeTableWord 8 0b00010000 = some .cons := by decide

theorem test_decode_unit2 :
    decodeTableWord 8 0b00100000 = some .add ∧ decodeTableWord 8 0b00100001 = some .sub ∧
    decodeTableWord 8 0b00100010 = some .quo ∧ decodeTableWord 8 0b00100011 = some .neg ∧
    decodeTableWord 8 0b00100100 = some .cmp ∧ decodeTableWord 8 0b00100101 = some .sign ∧
    decodeTableWord 8 0b00100110 = some .isneg ∧ decodeTableWord 8 0b00100111 = some .iszero := by decide

theorem test_decode_unit3 :
    decodeTableWord 8 0b00110000 = some .mul ∧ decodeTableWord 8 0b00110001 = some .mulint := by decide

theorem test_decode_unit4 :
    decodeTableWord 8 0b01000000 = some .tob16 ∧ decodeTableWord 8 0b01000001 = some .tosm ∧
    decodeTableWord 8 0b01000010 = some .fromsm := by decide

theorem test_decode_unit5 :
    decodeTableWord 8 0b01010000 = some .tohex ∧ decodeTableWord 8 0b01010001 = some .tohexp ∧
    decodeTableWord 8 0b01010010 = some .fromhex := by decide

theorem test_decode_unit6 :
    decodeTableWord 8 0b01100000 = some .tob64 ∧ decodeTableWord 8 0b01100001 = some .fromb64 := by decide

/-- Rule R73: the codes next to the table's are reserved; section 2.8's list. -/
theorem test_decode_reserved :
    ([0x00, 0x11, 0x28, 0x32, 0x43, 0x53, 0x62, 0x70, 0xFF] : List Nat).all
      (fun w => decodeTableWord 8 w == none) = true := by decide +kernel

/-- Rule R72: the mnemonic of each decoded word, as the table spells it. -/
theorem test_mnemonic_of_word :
    ([0x10, 0x22, 0x31, 0x42, 0x51, 0x61] : List Nat).map (fun w => (decodeTableWord 8 w).map Instr.mnemonic) =
      [some "CONS", some "QUO", some "MULINT", some "FROMSM", some "TOHEXP", some "FROMB64"] := by decide +kernel

/-! ## Commands -/

/-- Rule R100's worked example and rule R106. -/
theorem test_cons_half_and_third :
    rOf .cons (ab 1 2) = some (0x0000000000000000_8000000000000000#128, 0) ∧
    rOf .cons (ab (-1) 3) = some (0xFFFFFFFFFFFFFFFF_AAAAAAAAAAAAAAAB#128, 0) := by decide +kernel

/-- Rules R106, R108, R109: truncation below the last place, the integer part cut to 64 bits, a zero denominator. -/
theorem test_cons_corners :
    rOf .cons (ab 1 (2 ^ 65)) = some (0, 0) ∧ rOf .cons (ab (2 ^ 64) 1) = some (0, 0) ∧
    rOf .cons (ab 0 0) = some (0, 1) := by decide +kernel

/-- Rule R111: the word width 192. -/
theorem test_fracdiv_width : fracdiv 1 10 = 0x1999999999999999 ∧ fracdiv 1 86400000 = 0x00000031B5D43AFE := by
  decide +kernel

/-- Rule R120. -/
theorem test_add :
    rOf .add (ab 0x0000000000000001_0000000000000000#128 0x0000000000000000_8000000000000000#128) =
      some (0x0000000000000001_8000000000000000#128, 0) ∧
    rOf .add (ab 0x7FFFFFFFFFFFFFFF_FFFFFFFFFFFFFFFF#128 1) =
      some (0x8000000000000000_0000000000000000#128, 0) := by decide +kernel

/-- Rule R121: operand order, `0 - MIN`. -/
theorem test_sub :
    rOf .sub (ab 0x0000000000000001_0000000000000000#128 0x0000000000000000_8000000000000000#128) =
      some (0x0000000000000000_8000000000000000#128, 0) ∧
    rOf .sub (ab 0 0x8000000000000000_0000000000000000#128) =
      some (0x8000000000000000_0000000000000000#128, 0) := by decide +kernel

/-- Rule R122: raw quotient, truncation toward zero. -/
theorem test_quo :
    rOf .quo (ab 0x0000000000000001_0000000000000000#128 0x0000000000000000_8000000000000000#128) = some (2, 0) ∧
    rOf .quo (ab (-7) 2) = some (-3, 0) := by decide +kernel

/-- Rule R122: `MIN / -1` wraps, `0 / 0` raises. -/
theorem test_quo_corners :
    rOf .quo (ab 0x8000000000000000_0000000000000000#128 (-1)) =
      some (0x8000000000000000_0000000000000000#128, 0) ∧
    rOf .quo { ab 0 0 with r := 9 } = some (9, 1) := by decide +kernel

/-- Rule R123. -/
theorem test_neg :
    rOf .neg (ab 0x0000000000000001_8000000000000000#128 0) =
      some (0xFFFFFFFFFFFFFFFE_8000000000000000#128, 0) := by decide +kernel

/-- Rule R124: 0.5 against 1.0; `MAX` against `MIN`, whose wrapped difference would be -1. -/
theorem test_cmp :
    srOf .cmp (ab 0x0000000000000000_8000000000000000#128 0x0000000000000001_0000000000000000#128) =
      some (0b11#2, 0) ∧
    srOf .cmp (ab 0x7FFFFFFFFFFFFFFF_FFFFFFFFFFFFFFFF#128 0x8000000000000000_0000000000000000#128) =
      some (0b01#2, 0) := by decide +kernel

/-- Rule R125: -0.5. -/
theorem test_sign :
    srOf .sign (ab 0xFFFFFFFFFFFFFFFF_8000000000000000#128 0) = some (0b11#2, 0) ∧
    srOf .sign (ab 0 5) = some (0b00#2, 0) := by decide +kernel

/-- Rule R126: -0.5; zero is not negative. -/
theorem test_isneg :
    srOf .isneg (ab 0xFFFFFFFFFFFFFFFF_8000000000000000#128 0) = some (0b01#2, 0) ∧
    srOf .isneg (ab 0 (-1)) = some (0b00#2, 0) := by decide +kernel

/-- Rule R127. -/
theorem test_iszero :
    srOf .iszero (ab 0 7) = some (0b01#2, 0) ∧ srOf .iszero (ab 1 0) = some (0b00#2, 0) := by decide +kernel

/-- Rules R140, R143: 0.5 times 0.5; raw -3 times 0.5 rounds down. -/
theorem test_mul :
    rOf .mul (ab 0x0000000000000000_8000000000000000#128 0x0000000000000000_8000000000000000#128) =
      some (0x0000000000000000_4000000000000000#128, 0) ∧
    rOf .mul (ab (-3) 0x0000000000000000_8000000000000000#128) = some (-2, 0) := by decide +kernel

/-- Rule R145: `MAX` times `MAX`. -/
theorem test_mul_wraps :
    rOf .mul (ab 0x7FFFFFFFFFFFFFFF_FFFFFFFFFFFFFFFF#128 0x7FFFFFFFFFFFFFFF_FFFFFFFFFFFFFFFF#128) =
      some (0xFFFFFFFFFFFFFFFF_0000000000000000#128, 0) := by decide +kernel

/-- Rules R146, R149, R150: half a day in milliseconds; 1.5 by 1 and by -1. -/
theorem test_mulint :
    ((after (exec .mulint (ab 0x0000000000000000_8000000000000000#128 86400000))).map fun t => t.ir) =
      some 43200000 ∧
    ((after (exec .mulint (ab 0x0000000000000001_8000000000000000#128 1))).map fun t => t.ir) = some 1 ∧
    ((after (exec .mulint (ab 0x0000000000000001_8000000000000000#128 (-1)))).map fun t => t.ir) = some (-2) := by
  decide +kernel

/-- Rule R151: the largest result. -/
theorem test_mulint_largest :
    ((after (exec .mulint (ab 0x8000000000000000_0000000000000000#128 0x8000000000000000_0000000000000000#128))).map
      fun t => t.ir) = some 0x4000000000000000_0000000000000000_0000000000000000#192 := by decide +kernel

/-- Rule R160's worked example: -0.5. -/
theorem test_tob16 :
    bytesOf .tob16 (ab 0xFFFFFFFFFFFFFFFF_8000000000000000#128 0) =
      some ([0xFF, 0xFF, 0xFF, 0xFF, 0xFF, 0xFF, 0xFF, 0xFF, 0x80, 0, 0, 0, 0, 0, 0, 0], 0) := by decide +kernel

/-- Rule R161's worked example: -0.5; and `MIN`. -/
theorem test_tosm :
    bytesOf .tosm (ab 0xFFFFFFFFFFFFFFFF_8000000000000000#128 0) =
      some ([1, 0, 0, 0, 0, 0, 0, 0, 0, 0x80, 0, 0, 0, 0, 0, 0, 0], 0) ∧
    bytesOf .tosm (ab 0x8000000000000000_0000000000000000#128 0) =
      some ([1, 0x80, 0, 0, 0, 0, 0, 0, 0, 0, 0, 0, 0, 0, 0, 0, 0], 0) := by decide +kernel

/-- Rule R162's worked example: -1.5; a sign byte of 2. -/
theorem test_fromsm :
    rOf .fromsm (withBytes [1, 0, 0, 0, 0, 0, 0, 0, 1, 0x80, 0, 0, 0, 0, 0, 0, 0]) =
      some (0xFFFFFFFFFFFFFFFE_8000000000000000#128, 0) ∧
    rOf .fromsm (withBytes [2]) = some (0, 5) := by decide +kernel

/-- Rule R166: sign 1 with magnitude `2^128 - 1` is raw 1; negative zero is zero. -/
theorem test_fromsm_non_canonical :
    rOf .fromsm (withBytes (1 :: List.replicate 16 0xFF)) = some (1, 0) ∧
    rOf .fromsm (withBytes [1]) = some (0, 0) := by decide +kernel

/-- Rule R179: -1.5; `MIN`. -/
theorem test_tohex :
    textOf .tohex (ab 0xFFFFFFFFFFFFFFFE_8000000000000000#128 0) = some (ascii "-01.80", 0) ∧
    textOf .tohex (ab 0x8000000000000000_0000000000000000#128 0) = some (ascii "-8000000000000000.00", 0) := by
  decide +kernel

/-- Rule R178's worked example, and rule R183's. -/
theorem test_tohexp :
    textOf .tohexp { ab 0x0000000000000000_4000000000000000#128 0 with hs := 1, le := 17 } =
      some (ascii "0000000000000000.4000000000000000", 0) ∧
    textOf .tohexp { ab 0x0123456789ABCDEF_0FEDCBA987654321#128 0 with hs := 8, le := 10 } =
      some (ascii "EF.0F", 0) := by decide +kernel

/-- Rule R178: the pairs just outside the ranges. -/
theorem test_tohexp_invalid :
    ([(0, 10), (9, 10), (1, 9), (1, 18)] : List (BitVec 8 × BitVec 8)).all (fun p =>
      textOf .tohexp { ab 0 0 with hs := p.1, le := p.2 } == some ([], 2)) = true := by decide +kernel

/-- Rule R180: odd halves are padded on the left; the sign; lower case. -/
theorem test_fromhex :
    rOf .fromhex (withText (ascii "-1.5")) = some (0xFFFFFFFFFFFFFFFE_FB00000000000000#128, 0) ∧
    rOf .fromhex (withText (ascii "ff.FF")) = some (0x00000000000000FF_FF00000000000000#128, 0) := by decide +kernel

/-- Rule R180: the texts it lists as `FormatError`; the blank texts; 17 digits. -/
theorem test_fromhex_errors :
    (["+1.0", "0x1.0", "1.-2", "--1.0", "-", "-.", ".", ".00", "00.", "00", "1.2.3", "invalid",
        "00000000000000001.0", " 1.0"] : List String).all
      (fun t => rOf .fromhex (withText (ascii t)) == some (0, 4)) = true ∧
    rOf .fromhex (withText []) = some (0, 3) ∧ rOf .fromhex (withText [0x20, 0x09]) = some (0, 3) := by decide +kernel

/-- Rule R198: `ONE`, and `MAX`. -/
theorem test_tob64 :
    textOf .tob64 (ab 0x0000000000000001_0000000000000000#128 0) = some (ascii "AAAAAAAAAAABAAAAAAAAAAA=", 0) ∧
    textOf .tob64 (ab 0x7FFFFFFFFFFFFFFF_FFFFFFFFFFFFFFFF#128 0) = some (ascii "AH////////////////////8=", 0) := by
  decide +kernel

/-- Rule R199: -1.5, and raw -1 from a magnitude that does not fit. -/
theorem test_fromb64 :
    rOf .fromb64 (withText (ascii "AQAAAAAAAAABgAAAAAAAAAA=")) =
      some (0xFFFFFFFFFFFFFFFE_8000000000000000#128, 0) ∧
    rOf .fromb64 (withText (ascii "AP////////////////////8=")) = some (-1, 0) := by decide +kernel

/-- Rules R199, R200: fill bits, length, alphabet, sign byte. -/
theorem test_fromb64_errors :
    (["AQAAAAAAAAABgAAAAAAAAAB=", "AAAAAAAAAAAAAAAAAAAAAAA", "AAAAAAAAAAAAAAAAAAAAAAAA",
        "AAAAAAAAAAAAAAAAAAAAAA==", "AAAAAAAAAAA-AAAAAAAAAAA=", "AgAAAAAAAAAAAAAAAAAAAAA=", ""] : List String).all
      (fun t => rOf .fromb64 (withText (ascii t)) == some (0, 5)) = true := by decide +kernel

/-! ## Host actions, scripts, steps -/

/-- Rule R73: a reserved code changes `CMD` and `ERR` alone. -/
theorem test_reserved_code :
    after (hostAct (.cmd 0x28) { ab 1 2 with r := 9, sr := 1 }) =
      some { ab 1 2 with r := 9, sr := 1, cmd := 0x28, err := 6 } := by decide +kernel

/-- Section 2.8: the error of a `QUO` is gone after the next command, and `R` is unchanged by both. -/
theorem test_error_is_not_sticky :
    ((after (hostActs [.cmd 0x22, .cmd 0x25] { ab 0 0 with r := 9 })).map fun t => (t.err, t.r, t.sr)) =
      some (0, 9, 0) ∧
    ((after (hostActs [.cmd 0x22] { ab 0 0 with r := 9 })).map fun t => (t.err, t.r)) = some (1, 9) := by
  decide +kernel

/-- Section 3, program P1, its first six lines: 0.5 times 0.5. -/
theorem test_script_p1 :
    ((runScript [.wr .a (.num 1), .wr .b (.num 2), .cmd .cons, .mv .a .r, .mv .b .r, .cmd .mul] State.reset).map
      fun o => (after o).map fun t => (t.r, t.err)) =
      some (some (0x0000000000000000_4000000000000000#128, 0)) := by decide +kernel

/-- Section 3, program P4: "Encoding: `20 22 99 22 10`". -/
theorem test_script_encoding :
    scriptCodes [.wr .a (.num 7), .cmd .add, .wr .b (.num 0), .cmd .quo, .code 0x99, .wr .b (.num 2), .cmd .quo,
      .cmd .cons] = [0x20, 0x22, 0x99, 0x22, 0x10] := by decide

/-- Section 2.8: bytes of `IT` beyond `ITLEN` are not read. -/
theorem test_text_beyond_itlen :
    rOf .fromhex { withText (ascii "01.80XYZ") with itlen := 5 } =
      some (0x0000000000000001_8000000000000000#128, 0) := by decide +kernel

/-- Rule R242: the first command after reset, as `step` runs it: `CONS` raises `DivisionByZero`. -/
theorem test_step_first_command :
    ((after (step (State.reset.withFetchWord 8 0x10))).map fun t => (t.cmd, t.err, t.busy)) = some (0x10, 1, 0) := by
  decide +kernel

/-- Rule R243: with nothing asked of it the core is idle. -/
theorem test_step_idle : after (step State.reset) = some State.reset := by decide +kernel

/-- Rule R244: `busy` rises with `cmd_valid`, and `CMD` holds the code. -/
theorem test_pins_issue :
    (match clock (PinsIn.command 0x20) Clocked.reset with
      | .next m => (m.core.cmd, m.core.busy, m.done)
      | .fault _ => (0, 0, true)
      | .refused _ => (0, 0, true)) = (0x20, 1, false) := by rfl

/-! ## Witnesses: states and operands that meet the hypotheses of each statement that has some

One theorem per statement, `test_witness_<statement>`; where a statement has several clauses, each clause's
hypotheses, at the boundary values where the clauses meet. -/

theorem test_witness_StepTakesTheNextHostAction :
    State.reset.script = [] ∧
    ({ State.reset with script := [.rd .a, .reset] } : State).script = HostAction.rd .a :: [.reset] := ⟨rfl, rfl⟩

theorem test_witness_StepRunsTheDecodedCommand :
    ({ State.reset with script := [.cmd 0x20] } : State).script = HostAction.cmd 0x20 :: [] ∧ State.reset.busy = 0 ∧
    decode 0x20#8 = .ok .add ∧ Instr.add.wf = true ∧ decodeTableWord 8 0x61 = some .fromb64 := by
  refine ⟨rfl, rfl, rfl, rfl, rfl⟩

/-- Both ends of each reserved range. -/
theorem test_witness_ReservedCodeRaisesIllegalOp :
    State.reset.busy = 0 ∧
    ([0x00, 0x0F, 0x11, 0x1F, 0x28, 0x2F, 0x32, 0x3F, 0x43, 0x4F, 0x53, 0x5F, 0x62, 0xFF] : List Nat).all (fun n =>
      let c := BitVec.ofNat 8 n
      decide (c.toNat ≤ 0x0F ∨ (0x11 ≤ c.toNat ∧ c.toNat ≤ 0x1F) ∨ (0x28 ≤ c.toNat ∧ c.toNat ≤ 0x2F) ∨
      (0x32 ≤ c.toNat ∧ c.toNat ≤ 0x3F) ∨ (0x43 ≤ c.toNat ∧ c.toNat ≤ 0x4F) ∨
      (0x53 ≤ c.toNat ∧ c.toNat ≤ 0x5F) ∨ 0x62 ≤ c.toNat)) = true := by decide +kernel

theorem test_witness_EncodeAndDecodeAgree : Instr.cons.wf = true ∧ decode 0x52#8 = .ok .fromhex := ⟨rfl, rfl⟩

/-- A state with outputs and an error in it, and a command to come. -/
def invState : State :=
  { State.reset with
    script := [.cmd 0x20], cmd := 0x42, err := 5, sr := 0b11#2,
    ob := buffer 17 [1, 0x80], oblen := 17, ot := buffer 34 [0x30, 0x30, 0x2E, 0x30, 0x30], otlen := 5 }

theorem test_witness_StepKeepsRunInvariant : Inv invState ∧ ∃ t, step invState = .next t := by
  refine ⟨⟨rfl, by decide, ⟨by decide +kernel, by decide +kernel, by decide +kernel⟩,
    ⟨by decide +kernel, by decide +kernel, by decide +kernel⟩, ?_, ?_⟩, ⟨_, rfl⟩⟩
  · exact .inr (.inr (.inr (.inr (.inr (.inl ⟨rfl, .inr rfl⟩)))))
  · intro h; exact absurd h (by decide)

theorem test_witness_OperandRegistersAreNeverWritten : ∃ t, hostAct (.cmd 0x20) (ab 1 2) = .next t := ⟨_, rfl⟩

theorem test_witness_CommandWritesOnlyItsTableRow : ∃ t, exec .tob64 (ab 1 2) = .next t := ⟨_, rfl⟩

theorem test_witness_FailedCommandWritesOnlyErr :
    (ab 1 0).busy = 0 ∧ ((after (hostAct (.cmd 0x22) (ab 1 0))).map fun t => t.err) = some 1 := by decide +kernel

theorem test_witness_IdleCoreAlwaysSteps : (ab 1 2).busy = 0 := rfl

/-- One command of each class, once succeeding and, where it can, once for each kind it may raise. -/
theorem test_witness_ErrorKindsByCommand :
    ((after (hostAct (.cmd 0x00) (ab 1 2))).map fun t => t.err) = some 6 ∧
    ([(0x10, ab 1 2, 0), (0x10, ab 1 0, 1), (0x22, ab 1 0, 1), (0x51, ab 0 0, 2),
      (0x51, { ab 0 0 with hs := 8, le := 10 }, 0), (0x52, withText [0x31, 0x2E, 0x31], 0), (0x52, withText [], 3),
      (0x52, withText [0x2E], 4), (0x61, withText [], 5), (0x42, withBytes [2], 5), (0x42, withBytes [1], 0),
      (0x20, ab 1 2, 0)] : List (BitVec 8 × State × BitVec 3)).all
      (fun x => ((after (hostAct (.cmd x.1) x.2.1)).map fun t => t.err) == some x.2.2) = true := by decide +kernel

theorem test_witness_ResultDependsOnlyOnOperandsRead :
    (∀ x ∈ commandReads .neg, (ab 1 2).read x = ({ ab 1 3 with r := 7, err := 4 } : State).read x) ∧
    ((after (exec .neg (ab 1 2))).map fun t => t.err) = some 0 ∧
    ((after (exec .neg { ab 1 3 with r := 7, err := 4 })).map fun t => t.err) = some 0 := by decide +kernel

theorem test_witness_HostWriteWritesOneOperandRegister : (ab 1 2).busy = 0 := rfl

theorem test_witness_HostActionWhileBusyIsRefused :
    ({ State.reset with busy := 1 } : State).busy = 1 ∧
    ({ Clocked.reset with core := { State.reset with busy := 1 } } : Clocked).core.busy = 1 ∧
    (PinsIn.command 0x20).rst = false ∧ (PinsIn.command 0x20).cmdValid = true ∧
    ({ PinsIn.quiet with wrHS := some 1 } : PinsIn).writes ≠ [] := by decide +kernel

theorem test_witness_AddWrapsTheExactSum :
    (ab 1 0).b = 0 ∧ (ab 0 1).a = 0 ∧
    ((ab 0x7FFFFFFFFFFFFFFF_FFFFFFFFFFFFFFFF#128 1).a.toInt = 2 ^ 127 - 1 ∧ (ab 0x7FFFFFFFFFFFFFFF_FFFFFFFFFFFFFFFF#128 1).b.toInt = 1) := by
  decide +kernel

theorem test_witness_SubWrapsTheExactDifference :
    (ab 5 5).a = (ab 5 5).b ∧
    ((ab 0x8000000000000000_0000000000000000#128 1).a.toInt = -2 ^ 127 ∧ (ab 0x8000000000000000_0000000000000000#128 1).b.toInt = 1) ∧
    ((ab 0 0x8000000000000000_0000000000000000#128).a = 0 ∧ (ab 0 0x8000000000000000_0000000000000000#128).b.toInt = -2 ^ 127) := by
  decide +kernel

theorem test_witness_QuoTruncatesTheRawQuotient :
    ((ab (-7) 2).b.toInt ≠ 0 ∧ (ab (-7) 2).a.toInt = -7 ∧ (ab (-7) 2).b.toInt = 2) ∧
    ((ab 7 (-2)).a.toInt = 7 ∧ (ab 7 (-2)).b.toInt = -2) ∧
    ((ab (-7) (-2)).a.toInt = -7 ∧ (ab (-7) (-2)).b.toInt = -2) ∧
    ((ab 0x8000000000000000_0000000000000000#128 (-1)).a.toInt = -2 ^ 127 ∧ (ab 0x8000000000000000_0000000000000000#128 (-1)).b.toInt = -1) ∧
    (ab 1 (-2)).a.toInt.natAbs < (ab 1 (-2)).b.toInt.natAbs ∧ (ab 1 0).b.toInt = 0 := by decide +kernel

/-- A state for every pair of signs; the exception of the table; the value next to it. -/
theorem test_witness_QuoSignTable :
    ([(1, 1), (-1, 1), (1, -1), (-1, -1), (0, 5), (0x8000000000000000_0000000000000000#128, -1),
      (0x8000000000000000_0000000000000001#128, -1), (0x8000000000000000_0000000000000000#128, -2)] :
        List (Word × Word)).all
      (fun p => decide ((ab p.1 p.2).b.toInt ≠ 0) && (after (exec .quo (ab p.1 p.2))).isSome) = true ∧
    ¬((ab 0x8000000000000000_0000000000000001#128 (-1)).a.toInt = -2 ^ 127 ∧ (-1 : Word).toInt = -1) := by
  decide +kernel

theorem test_witness_NegWrapsTheNegatedValue :
    (ab 0 0).a = 0 ∧ (ab 0x8000000000000000_0000000000000000#128 0).a.toInt = -2 ^ 127 ∧
    (ab 0x8000000000000000_0000000000000001#128 0).a.toInt ≠ -2 ^ 127 := by decide +kernel

theorem test_witness_IsnegIsTheTopBit :
    (ab 1 0).a ≠ 0 ∧ (ab 0x8000000000000000_0000000000000000#128 0).a ≠ 0 := by decide +kernel

theorem test_witness_AdderLaws : Instr.mul ∈ [Instr.add, .sub, .neg, .mul] ∧ (ab ZERO 1).a = ZERO := by
  decide +kernel

theorem test_witness_MulFloorsTheRescaledProduct :
    (ab 0x0000000000000000_8000000000000000#128 0x0000000000000000_8000000000000000#128).a.toInt = 2 ^ 63 ∧
    (ab 0x0000000000000000_8000000000000000#128 0x0000000000000000_8000000000000000#128).b.toInt = 2 ^ 63 := by
  decide +kernel

theorem test_witness_MulIsTheMiddleOfTheDoubleWidthProduct :
    (∃ t, exec .mul (ab (-1) 3) = .next t) ∧ ((ab (-1) 3).a.extractLsb' 64 64).toInt = -1 ∧
    ((ab (-1) 3).b.extractLsb' 64 64).toInt = 0 ∧ ((ab (-1) 3).a.extractLsb' 0 64).toNat = 2 ^ 64 - 1 ∧
    ((ab (-1) 3).b.extractLsb' 0 64).toNat = 3 := ⟨⟨_, rfl⟩, by decide +kernel⟩

/-- The ends of the range of represented products, and an operand for each example. -/
theorem test_witness_MulRoundsTowardMinusInfinity :
    (-2 ^ 63 ≤ realOf 0x8000000000000000_0000000000000000#128 * realOf ONE ∧
      realOf 0x8000000000000000_0000000000000000#128 * realOf ONE < 2 ^ 63) ∧
    (-2 ^ 63 ≤ realOf 0x7FFFFFFFFFFFFFFF_FFFFFFFFFFFFFFFF#128 * realOf ONE ∧
      realOf 0x7FFFFFFFFFFFFFFF_FFFFFFFFFFFFFFFF#128 * realOf ONE < 2 ^ 63) ∧
    (ab 1 1).a.toInt ≠ -2 ^ 127 ∧ ((ab 1 1).a.toInt = 1 ∧ (ab 1 1).b.toInt = 1) ∧
    ((ab (-1) 1).a.toInt = -1 ∧ (ab (-1) 1).b.toInt = 1) ∧ ((ab (-1) (-1)).a.toInt = -1 ∧ (ab (-1) (-1)).b.toInt = -1) ∧
    ((ab (-3) 0x8000000000000000#128).a.toInt = -3 ∧ (ab (-3) 0x8000000000000000#128).b.toInt = 2 ^ 63) ∧
    ((ab 3 0x8000000000000000#128).a.toInt = 3 ∧ (ab 3 0x8000000000000000#128).b.toInt = 2 ^ 63) ∧
    (ab 0x0000000000000003_0000000000000000#128 0x5555555555555555#128).a.toInt = 3 * 2 ^ 64 ∧
    (ab 0x0000000000000003_0000000000000000#128 0x5555555555555555#128).b.toInt = 0x5555555555555555 := by
  decide +kernel

theorem test_witness_MulRangeAndOverflow :
    (ab 0x8000000000000000_0000000000000000#128 0x7FFFFFFFFFFFFFFF_FFFFFFFFFFFFFFFF#128).a.toInt = -2 ^ 127 ∧
    (ab 0x8000000000000000_0000000000000000#128 0x7FFFFFFFFFFFFFFF_FFFFFFFFFFFFFFFF#128).b.toInt = 2 ^ 127 - 1 ∧
    (ab 0x8000000000000000_0000000000000000#128 0x8000000000000000_0000000000000000#128).a.toInt = -2 ^ 127 ∧
    (ab 0x8000000000000000_0000000000000000#128 0x8000000000000000_0000000000000000#128).b.toInt = -2 ^ 127 := by
  decide +kernel

theorem test_witness_MulintRoundsTheExactProduct :
    (ab 0x8000000000000000_0000000000000000#128 0x8000000000000000_0000000000000000#128).a.toInt = -2 ^ 127 ∧
    (ab 0x8000000000000000_0000000000000000#128 0x8000000000000000_0000000000000000#128).b.toInt = -2 ^ 127 := by
  decide +kernel

/-- Both ends of each range. -/
theorem test_witness_HydrateClosedForm : (0 < 2 ^ 64 ∧ 1 ≤ 1 ∧ 1 ≤ 2 ^ 127) ∧
    (2 ^ 64 - 1 < 2 ^ 64 ∧ 1 ≤ 2 ^ 127 ∧ 2 ^ 127 ≤ 2 ^ 127) := by decide

/-- Both ends of each range. -/
theorem test_witness_FracdivClosedForm : (1 ≤ 1 ∧ 1 ≤ 2 ^ 127 ∧ 0 < 1) ∧
    (1 ≤ 2 ^ 127 ∧ 2 ^ 127 ≤ 2 ^ 127 ∧ 2 ^ 127 - 1 < 2 ^ 127) := by decide

theorem test_witness_ConsBuildsTheTruncatedQuotient :
    (ab (-1) 3).b.toInt ≠ 0 ∧ (ab 0x8000000000000000_0000000000000000#128 1).b.toInt ≠ 0 := by decide +kernel

theorem test_witness_ConsByZeroRaises :
    (ab 0 0).b.toInt = 0 ∧
    (ab 0x8000000000000000_0000000000000000#128 0x8000000000000000_0000000000000000#128).a.toInt = -2 ^ 127 ∧
    (ab 0x8000000000000000_0000000000000000#128 0x8000000000000000_0000000000000000#128).b.toInt = -2 ^ 127 ∧
    (ab 1 0x8000000000000000_0000000000000000#128).a.toInt = 1 ∧
    (ab 1 0x8000000000000000_0000000000000000#128).b.toInt = -2 ^ 127 := by decide +kernel

/-- A quotient of either case; the least one that does not fit is refused by the hypothesis. -/
theorem test_witness_ConsRoundsTowardZero :
    (ab (-1) 3).b.toInt ≠ 0 ∧ (∃ t, exec .cons (ab (-1) 3) = .next t) ∧
    (ab (-1) 3).a.toInt.natAbs * 2 ^ 64 / (ab (-1) 3).b.toInt.natAbs < 2 ^ 127 ∧
    ((ab (-2 ^ 63) 1).a.toInt.natAbs * 2 ^ 64 / (ab (-2 ^ 63) 1).b.toInt.natAbs = 2 ^ 127 ∧
      (ab (-2 ^ 63) 1).a.toInt.sign * (ab (-2 ^ 63) 1).b.toInt.sign = -1) ∧ (ab 0 (-5)).a = 0 :=
  ⟨by decide +kernel, ⟨_, rfl⟩, by decide +kernel⟩

theorem test_witness_ConsThenMulintReturnsTheNumerator :
    (ab 1 86400000).b.toInt ≠ 0 ∧ (ab 1 86400000).b.toInt.natAbs ≤ 2 ^ 63 ∧
    (ab 1 86400000).a.toInt.natAbs < 2 ^ 63 * (ab 1 86400000).b.toInt.natAbs ∧
    (ab (2 ^ 126 - 1) (2 ^ 63)).b.toInt.natAbs ≤ 2 ^ 63 ∧
    (ab (2 ^ 126 - 1) (2 ^ 63)).a.toInt.natAbs < 2 ^ 63 * (ab (2 ^ 126 - 1) (2 ^ 63)).b.toInt.natAbs := by
  decide +kernel

theorem test_witness_SixteenByteFormIsABijection : (List.replicate 16 (0xFF#8)).length = 16 := rfl

/-- The sign bytes 1 and 2, where the two clauses meet. -/
theorem test_witness_FromsmReadsSignAndMagnitude :
    ((withBytes [0]).ib[0]).toNat ≤ 1 ∧ ((withBytes [1]).ib[0]).toNat ≤ 1 ∧ 1 < ((withBytes [2]).ib[0]).toNat := by
  decide +kernel

theorem test_witness_ByteFormRoundTrip :
    (ab 1 0).busy = 0 ∧ (0x01#8 :: List.replicate 16 (0x00#8)).length = 17 ∧
    ((0x01#8 :: List.replicate 16 (0x00#8)).getD 0 0).toNat ≤ 1 := by decide

theorem test_witness_TextAlphabets :
    [0x41#8, 0x66#8].length % 2 = 0 ∧ (∀ c ∈ [0x41#8, 0x66#8], (hexVal c).isSome = true) ∧
    0 < [0x41#8, 0x66#8].length / 2 := by decide

/-- The four corners of the legal pairs, and the four pairs just outside. -/
theorem test_witness_TohexpPrintsTheWindow :
    ([(1, 10), (1, 17), (8, 10), (8, 17)] : List (BitVec 8 × BitVec 8)).all (fun p =>
      decide (1 ≤ p.1.toNat ∧ p.1.toNat ≤ 8 ∧ 10 ≤ p.2.toNat ∧ p.2.toNat ≤ 17)) = true ∧
    ([(0, 10), (9, 10), (1, 9), (1, 18)] : List (BitVec 8 × BitVec 8)).all (fun p =>
      decide (¬(1 ≤ p.1.toNat ∧ p.1.toNat ≤ 8 ∧ 10 ≤ p.2.toNat ∧ p.2.toNat ≤ 17))) = true := by decide +kernel

theorem test_witness_TohexTrimsZeroBytes : (ab 0 0).a = ZERO := rfl

/-- The text `-1.8`; a blank text; the text `x`, which is not blank and has no point. -/
theorem test_witness_FromhexReadsTheNumeralOrRaises :
    IsHexText true [0x31] [0x38] (withText [0x2D, 0x31, 0x2E, 0x38]).inputText ∧
    (∀ c ∈ (withText [0x20, 0x09]).inputText, isSpace c = true) ∧ (∀ c ∈ (withText []).inputText, isSpace c = true) ∧
    (∃ c ∈ (withText [0x78]).inputText, isSpace c = false) ∧
    ¬∃ (negative : Bool) (H L : List Byte), IsHexText negative H L (withText [0x78]).inputText := by
  have h1 : (withText [0x78]).inputText = [0x78] := by decide +kernel
  refine ⟨⟨by decide +kernel, by decide, by decide, by decide, by decide, by decide, by decide⟩, by decide +kernel,
    by decide +kernel, ⟨0x78, by decide +kernel, by decide⟩, ?_⟩
  rintro ⟨negative, H, L, h, hH, -, hL, -⟩
  have hlen := congrArg List.length (h1.symm.trans h)
  simp only [List.length_append, List.length_singleton] at hlen
  omega

theorem test_witness_HexRoundTrip : (ab (-1) 0).busy = 0 := rfl

theorem test_witness_HexWindowRoundTrip :
    (ab (-1) 0).busy = 0 ∧ 1 ≤ (8#8).toNat ∧ (8#8).toNat ≤ 8 ∧ 10 ≤ (10#8).toNat ∧ (10#8).toNat ≤ 17 := by decide

/-- 24 characters that decode to the negative zero; the empty text. -/
theorem test_witness_Fromb64AcceptsExactlyTheAcceptedSet :
    IsB64Text (withText (ascii "AQAAAAAAAAAAAAAAAAAAAAA=")).inputText ∧ ¬IsB64Text (withText []).inputText :=
  ⟨⟨by decide +kernel, by decide +kernel, by decide +kernel, by decide +kernel, by decide +kernel,
    by decide +kernel⟩, fun h => absurd h.1 (by decide +kernel)⟩

theorem test_witness_Base64RoundTrip : (ab (-1) 0).busy = 0 := rfl

theorem test_witness_PseudoActionsCopyRegisters :
    (ab 1 2).busy = 0 ∧ ({ ab 1 2 with otlen := 34 } : State).otlen.toNat ≤ 34 := by decide +kernel

theorem test_witness_TextLineSetsTheInputText :
    (ab 1 2).busy = 0 ∧ (List.replicate 127 (0x7F#8)).length ≤ 127 ∧
    ∀ c ∈ List.replicate 127 (0x7F#8), c.toNat < 128 := by decide +kernel

theorem test_witness_FirstCommandAfterReset :
    Instr.fromsm ∈ [Instr.add, .sub, .neg, .mul, .cmp, .sign, .isneg, .mulint, .fromsm] ∧
    Instr.cons ∈ [Instr.quo, .cons] := by decide

theorem test_witness_PinsRefineTheAtomicCommand : Clocked.reset.core.busy = 0 := rfl

theorem test_witness_PinResetAbortsARunningCommand : PinsIn.resetting.rst = true := rfl

theorem test_witness_PinWritesAreHostWrites :
    Clocked.reset.core.busy = 0 ∧ ({ PinsIn.quiet with wrA := some 1, wrLE := some 17 } : PinsIn).rst = false ∧
    ({ PinsIn.quiet with wrA := some 1, wrLE := some 17 } : PinsIn).cmdValid = false ∧
    [OperandWrite.le 17, .a 1].Perm ({ PinsIn.quiet with wrA := some 1, wrLE := some 17 } : PinsIn).writes := by
  decide +kernel

end Sys2Proof.Tests
end

section
/-! The state family: what reset leaves, what a command does to the registers in terms of its operands alone, and the
statements on reset, the operand registers and the operands a result depends on (rules R35, R38, R40, R41). -/

namespace Sys2Proof.Machine

open Sys2Proof.Safety

/-! ## Reset -/

/-- Rules R40, R240: `RESET` puts every register, as it reads, at its reset value. -/
theorem State.resetRegs_read (s : State) (x : Reg) : s.resetRegs.read x = State.reset.read x := by
  cases x <;> rfl

/-! ## The operand registers -/

/-- The operand registers of rule R20. -/
structure Operands where
  a : Word
  b : Word
  hs : BitVec 8
  le : BitVec 8
  ib : Vector Byte 17
  it : Vector Byte 127
  itlen : BitVec 7

/-- What the operand registers hold. -/
def State.operands (s : State) : Operands :=
  { a := s.a, b := s.b, hs := s.hs, le := s.le, ib := s.ib, it := s.it, itlen := s.itlen }

/-- Rule R25: the input text, as the operand registers alone give it. -/
def Operands.inputText (o : Operands) : List Byte := o.it.toList.take (uint o.itlen)

theorem State.operands_eq_iff (s t : State) : t.operands = s.operands ↔
    t.a = s.a ∧ t.b = s.b ∧ t.hs = s.hs ∧ t.le = s.le ∧ t.ib = s.ib ∧ t.it = s.it ∧ t.itlen = s.itlen := by
  simp only [State.operands, Operands.mk.injEq]

@[simp] theorem State.issue_operands (c : BitVec 8) (s : State) : (s.issue c).operands = s.operands := rfl
@[simp] theorem State.succeed_operands (s : State) : s.succeed.operands = s.operands := rfl
@[simp] theorem State.raise_operands (k : ErrorKind) (s : State) : (s.raise k).operands = s.operands := rfl

/-! ## The result of a command, as a value -/

/-- What a successful command writes: one of the groups of result registers of rule R35. -/
inductive ResultWrite where
  | r (v : Word)
  | ir (v : IWord)
  | sr (v : BitVec 2)
  | bytes (l : List Byte)
  | text (t : List Byte)

/-- The result registers a write reaches. -/
def ResultWrite.regs : ResultWrite → List Reg
  | .r _ => [.r]
  | .ir _ => [.ir]
  | .sr _ => [.sr]
  | .bytes _ => [.ob, .oblen]
  | .text _ => [.ot, .otlen]

/-- A result written by the model's own operation for its registers. -/
def State.applyResult : ResultWrite → State → State
  | .r v => State.writeR v
  | .ir v => State.writeIR v
  | .sr v => State.writeSR v
  | .bytes l => State.writeBytes l
  | .text t => State.writeText t

@[simp] theorem State.applyResult_operands (w : ResultWrite) (s : State) :
    (s.applyResult w).operands = s.operands := by
  cases w <;> rfl

/-- A register that a result reaches reads the same after it in every state. -/
theorem read_applyResult_eq {w : ResultWrite} {x : Reg} (hx : x ∈ w.regs) (s₁ s₂ : State) :
    (s₁.applyResult w).succeed.read x = (s₂.applyResult w).succeed.read x := by
  cases w <;> simp only [ResultWrite.regs, List.mem_cons, List.not_mem_nil, or_false] at hx
  case r | ir | sr => subst hx; rfl
  case bytes | text => obtain rfl | rfl := hx <;> rfl

/-- What each command computes from the operand registers, or the error it raises; `exec_eq_finish` ties it to
`exec`. -/
def commandResult (o : Operands) : Instr → Except ErrorKind ResultWrite
  | .cons => (construct (sint o.a) (sint o.b)).map .r
  | .add => .ok (.r (wrap 128 (raw o.a + raw o.b)))
  | .sub => .ok (.r (wrap 128 (raw o.a - raw o.b)))
  | .quo => (rawQuotient (raw o.a) (raw o.b)).map .r
  | .neg => .ok (.r (wrap 128 (-raw o.a)))
  | .cmp => .ok (.sr (signCode (raw o.a - raw o.b)))
  | .sign => .ok (.sr (signCode (raw o.a)))
  | .isneg => .ok (.sr (truthCode (isNegative o.a)))
  | .iszero => .ok (.sr (truthCode (decide (raw o.a = 0))))
  | .mul => .ok (.r (wrap 128 (scaledProduct (raw o.a) (raw o.b))))
  | .mulint => .ok (.ir (wrap 192 (integerProduct o.a (sint o.b))))
  | .tob16 => .ok (.bytes (be 16 (uint o.a)))
  | .tosm => .ok (.bytes (sm17 o.a))
  | .fromsm => (valueOfBytes o.ib.toList).map .r
  | .tohex => .ok (.text (hexText (sm17 o.a) (autoHigh (sm17 o.a)) (autoLow (sm17 o.a))))
  | .tohexp => (preciseText o.a (uint o.hs) (uint o.le)).map .text
  | .fromhex => (parseHex o.inputText).map .r
  | .tob64 => .ok (.text (b64enc17 (sm17 o.a)))
  | .fromb64 => (parseB64 o.inputText).map .r

theorem finish_map {α β : Type} (s : State) (write : β → State → State) (f : α → β) (x : Except ErrorKind α) :
    finish s write (x.map f) = finish s (fun v => write (f v)) x := by
  cases x <;> rfl

/-- Rules R13, R38: every command ends by writing the result its operands give, or by raising their error. -/
theorem exec_eq_finish (i : Instr) (s : State) :
    exec i s = finish s State.applyResult (commandResult s.operands i) := by
  cases i
  case cons | quo | fromsm | tohexp | fromhex | fromb64 => rw [commandResult, finish_map]; rfl
  all_goals rfl

/-- Everything a command can do (rules R13, R55): it writes the result of its operands and succeeds, or raises. -/
theorem exec_cases {i : Instr} {s t : State} (h : exec i s = .next t) :
    (∃ w, commandResult s.operands i = .ok w ∧ t = (s.applyResult w).succeed) ∨
    (∃ k, commandResult s.operands i = .error k ∧ t = s.raise k) :=
  finish_next (exec_eq_finish i s ▸ h)

theorem ResultWrite.regs_of_map {α : Type} {f : α → ResultWrite} {l : List Reg} {x : Except ErrorKind α}
    {w : ResultWrite} (h : x.map f = .ok w) (hf : ∀ v, (f v).regs = l) : w.regs = l := by
  cases x with
  | ok v => cases h; exact hf v
  | error k => cases h

/-- Rule R35, the table: the result of a command is one for the registers its row says it writes. -/
theorem commandResult_regs {o : Operands} {i : Instr} {w : ResultWrite} (h : commandResult o i = .ok w) :
    w.regs = commandWrites i := by
  cases i
  case cons | quo | fromsm | tohexp | fromhex | fromb64 =>
    rw [commandResult] at h
    exact ResultWrite.regs_of_map h fun _ => rfl
  all_goals cases h; rfl

/-- Rules R35, R38: the result of a command depends on no operand register but those its row says it reads. -/
theorem commandResult_congr {i : Instr} {s₁ s₂ : State} (h : ∀ x ∈ commandReads i, s₁.read x = s₂.read x) :
    commandResult s₁.operands i = commandResult s₂.operands i := by
  cases i
  case cons | add | sub | quo | cmp | mul | mulint =>
    have ha : s₁.operands.a = s₂.operands.a := ReadData.a.inj (h .a (by decide))
    have hb : s₁.operands.b = s₂.operands.b := ReadData.b.inj (h .b (by decide))
    simp only [commandResult, ha, hb]
  case neg | sign | isneg | iszero | tob16 | tosm | tohex | tob64 =>
    have ha : s₁.operands.a = s₂.operands.a := ReadData.a.inj (h .a (by decide))
    simp only [commandResult, ha]
  case fromsm =>
    have hib : s₁.operands.ib = s₂.operands.ib := ReadData.ib.inj (h .ib (by decide))
    simp only [commandResult, hib]
  case tohexp =>
    have ha : s₁.operands.a = s₂.operands.a := ReadData.a.inj (h .a (by decide))
    have hhs : s₁.operands.hs = s₂.operands.hs := ReadData.hs.inj (h .hs (by decide))
    have hle : s₁.operands.le = s₂.operands.le := ReadData.le.inj (h .le (by decide))
    simp only [commandResult, ha, hhs, hle]
  case fromhex | fromb64 =>
    have hit : s₁.operands.it = s₂.operands.it := ReadData.it.inj (h .it (by decide))
    have hitlen : s₁.operands.itlen = s₂.operands.itlen := ReadData.itlen.inj (h .itlen (by decide))
    simp only [commandResult, Operands.inputText, hit, hitlen]

/-! ## What a command leaves of the operand registers -/

theorem exec_operands {i : Instr} {s t : State} (h : exec i s = .next t) : t.operands = s.operands := by
  obtain ⟨w, -, rfl⟩ | ⟨k, -, rfl⟩ := exec_cases h <;> simp

/-- Rule R41, for a code of the table and for a reserved one. -/
theorem runCode_operands {c : BitVec 8} {s t : State} (h : runCode c s = .next t) : t.operands = s.operands := by
  obtain ⟨i, -, hi⟩ | ⟨-, hr⟩ := runCode_cases c s
  · exact exec_operands (hi ▸ h)
  · rw [hr] at h
    cases h
    rfl

/-- Rule R41, with the issue of the command. -/
theorem hostAct_cmd_operands {c : BitVec 8} {s t : State} (h : hostAct (.cmd c) s = .next t) :
    t.operands = s.operands := by
  obtain ⟨_, hw, -⟩ | ⟨_, hx, -⟩ | ⟨_, hc, -, hrun⟩ | ⟨hr, -⟩ := hostAct_cases h
  · cases hw
  · cases hx
  · exact (runCode_operands hrun).trans (State.issue_operands _ s)
  · cases hr

end Sys2Proof.Machine

namespace Sys2Proof.Proofs.StateFamily

open Sys2Proof.Machine Sys2Proof.Safety

/-- Settles O1: reset is zero field by field, and `RESET` reads as it register by register. -/
theorem resetZeroesEveryRegister : Obligations.ResetZeroesEveryRegister := by
  unfold Obligations.ResetZeroesEveryRegister
  refine ⟨?_, fun s => ⟨s.resetRegs, rfl, s.resetRegs_read, rfl, rfl⟩⟩
  simp [State.reset]

/-- Settles O9: issue, result and completion each keep the operand registers. -/
theorem operandRegistersAreNeverWritten : Obligations.OperandRegistersAreNeverWritten := by
  unfold Obligations.OperandRegistersAreNeverWritten
  intro c s t h
  exact (State.operands_eq_iff s t).mp (hostAct_cmd_operands h)

/-- Settles O14: both runs end with the one result, or the one error, that the operands read give. -/
theorem resultDependsOnlyOnOperandsRead : Obligations.ResultDependsOnlyOnOperandsRead := by
  unfold Obligations.ResultDependsOnlyOnOperandsRead
  intro i s₁ s₂ t₁ t₂ hreads h₁ h₂
  rw [exec_eq_finish] at h₁ h₂
  rw [← commandResult_congr hreads] at h₂
  cases hres : commandResult s₁.operands i with
  | ok w =>
    rw [hres] at h₁ h₂
    cases h₁
    cases h₂
    exact ⟨rfl, fun _ x hx => read_applyResult_eq (commandResult_regs hres ▸ hx) s₁ s₂⟩
  | error k =>
    rw [hres] at h₁ h₂
    cases h₁
    cases h₂
    exact ⟨rfl, fun herr => absurd herr (code_ne_zero k)⟩

end Sys2Proof.Proofs.StateFamily
end

section
/-! The encoding family: the codes the decoder accepts are those of the command table, and every other code raises
`IllegalOp` and writes nothing but `CMD` and `ERR` (rules R72, R73, R217). -/

namespace Sys2Proof.Machine

/-! ## The reserved codes -/

/-- Rule R73: the seven ranges of reserved codes; `decode_of_inReservedRange` ties them to the decoder. -/
def InReservedRange (c : BitVec 8) : Prop :=
  c.toNat ≤ 0x0F ∨ (0x11 ≤ c.toNat ∧ c.toNat ≤ 0x1F) ∨ (0x28 ≤ c.toNat ∧ c.toNat ≤ 0x2F) ∨
  (0x32 ≤ c.toNat ∧ c.toNat ≤ 0x3F) ∨ (0x43 ≤ c.toNat ∧ c.toNat ≤ 0x4F) ∨
  (0x53 ≤ c.toNat ∧ c.toNat ≤ 0x5F) ∨ 0x62 ≤ c.toNat

/-- Rule R73: no row of the command table has its code in a reserved range. -/
theorem commandTable_not_inReservedRange : ∀ row ∈ commandTable, ¬InReservedRange row.code := by
  unfold InReservedRange
  decide

/-- A code that no row of the command table has is rejected by its name. -/
theorem decode_of_not_in_table {c : BitVec 8} (h : ∀ row ∈ commandTable, row.code ≠ c) :
    decode c = .error (.reserved c) := by
  have hnone : commandTable.find? (fun row => row.code == c) = none :=
    List.find?_eq_none.mpr fun row hrow => by simpa using h row hrow
  rw [decode, hnone]

theorem decode_of_inReservedRange {c : BitVec 8} (h : InReservedRange c) : decode c = .error (.reserved c) :=
  decode_of_not_in_table fun row hrow hcode => commandTable_not_inReservedRange row hrow (hcode ▸ h)

/-- Rule R72: the codes the decoder accepts are the table's code column, in its order. -/
theorem filter_decode_isOk :
    (List.range 256).filter (fun n => (decode (BitVec.ofNat 8 n)).isOk) =
      commandTable.map fun row => row.code.toNat := by
  decide +kernel

/-- Rule R73: of the 256 codes all but the table's 19 are reserved. -/
theorem length_filter_not_decode_isOk :
    ((List.range 256).filter fun n => !(decode (BitVec.ofNat 8 n)).isOk).length = 237 := by
  have hsplit := List.length_eq_length_filter_add (l := List.range 256) fun n => (decode (BitVec.ofNat 8 n)).isOk
  have hrows : commandTable.length = 19 := rfl
  rw [filter_decode_isOk, List.length_map, hrows, List.length_range] at hsplit
  omega

/-! ## What a reserved code does -/

/-- Rules R73, R217, from the side of the decoder. -/
theorem runCode_of_decode_error {c : BitVec 8} {e : DecodeError} (h : decode c = .error e) (s : State) :
    runCode c s = .next (s.raise .illegalOp) := by
  rw [runCode, h]

/-- Rules R55, R245: a command given to an idle core is issued and run. -/
theorem hostAct_cmd_of_idle {s : State} (h : s.busy = 0) (c : BitVec 8) :
    hostAct (.cmd c) s = runCode c (s.issue c) := by
  simp [hostAct, h]

/-- Issuing a code and taking an error, on an idle core, writes `CMD` and `ERR` only (rules R13, R221). -/
theorem State.raise_issue_of_idle {s : State} (h : s.busy = 0) (c : BitVec 8) (k : ErrorKind) :
    (s.issue c).raise k = { s with cmd := c, err := k.code } := by
  simp only [State.issue, State.raise, h]

end Sys2Proof.Machine

namespace Sys2Proof.Proofs.EncodingFamily

open Sys2Proof.Machine

/-- Settles O4: a code in a reserved range is in no row of the table, so its issue ends in `IllegalOp`; and the codes
in no row are 256 less the table's 19. -/
theorem reservedCodeRaisesIllegalOp : Obligations.ReservedCodeRaisesIllegalOp := by
  unfold Obligations.ReservedCodeRaisesIllegalOp
  refine ⟨fun s c hidle hc => ?_, ?_⟩
  · rw [hostAct_cmd_of_idle hidle, runCode_of_decode_error (decode_of_inReservedRange hc),
      State.raise_issue_of_idle hidle]
    rfl
  · refine Eq.trans (congrArg List.length (List.filter_congr fun n _ => ?_)) length_filter_not_decode_isOk
    cases decode (BitVec.ofNat 8 n) <;> rfl

end Sys2Proof.Proofs.EncodingFamily
end

section
/-! The construct family: the closed form of the fractional division, whose early stop cannot be observed, and `CONS`
as the truncated quotient of its operands (rules R100 to R109). -/

namespace Sys2Proof.Machine

open Sys2Proof.Safety

/-! ## The fractional division -/

/-- Halving a divisor with a factor of two left. -/
theorem two_pow_succ_mul_half (k E : Nat) : 2 ^ (k + 1) * E / 2 = 2 ^ k * E := by
  rw [pow_succ', mul_assoc, Nat.mul_div_cancel_left _ two_pos]

/-- Rule R104: a long division with `k` iterations left whose remainder is below its divisor `2^k * E` appends the `k`
bits of `Rm / E` to `lo`. -/
theorem longDivision_eq {k E Rm : Nat} (lo : Nat) (h : Rm < 2 ^ k * E) :
    longDivision k (2 ^ k * E) Rm lo = lo * 2 ^ k + Rm / E := by
  induction k generalizing Rm lo with
  | zero =>
    rw [pow_zero, one_mul] at h
    simp [longDivision, Nat.div_eq_of_lt h]
  | succ k ih =>
    rw [pow_succ', mul_assoc] at h
    rw [longDivision, two_pow_succ_mul_half]
    split
    next hfits =>
      have hE : 0 < E := Nat.pos_of_ne_zero (by rintro rfl; simp at h)
      have hquot : 2 ^ k ≤ Rm / E := (Nat.le_div_iff_mul_le hE).mpr hfits
      rw [ih _ (by omega), mul_comm _ E, Nat.sub_mul_div]
      calc (2 * lo + 1) * 2 ^ k + (Rm / E - 2 ^ k)
          = lo * 2 ^ (k + 1) + (2 ^ k + (Rm / E - 2 ^ k)) := by ring
        _ = lo * 2 ^ (k + 1) + Rm / E := by rw [Nat.add_sub_cancel' hquot]
    next =>
      rw [ih _ (by omega)]
      ring

/-- Rule R103: with a zero remainder the iterations left append zeros only, so stopping there is the same. -/
theorem fracdivLoop_eq_longDivision {E : Nat} (hE : 0 < E) (k Rm lo : Nat) :
    fracdivLoop k (2 ^ k * E) Rm lo = longDivision k (2 ^ k * E) Rm lo := by
  induction k generalizing Rm lo with
  | zero => rfl
  | succ k ih =>
    have hrest : ∀ Rm lo, (if Rm = 0 then lo <<< k else fracdivLoop k (2 ^ k * E) Rm lo) =
        longDivision k (2 ^ k * E) Rm lo := by
      intro Rm lo
      split
      next hzero =>
        rw [hzero, longDivision_eq lo (by positivity), Nat.zero_div, add_zero, Nat.shiftLeft_eq]
      next => exact ih Rm lo
    have hlo : lo <<< 1 = 2 * lo := by rw [Nat.shiftLeft_eq, pow_one, mul_comm]
    rw [longDivision, fracdivLoop, Nat.shiftRight_one, two_pow_succ_mul_half, hlo]
    by_cases hfits : 2 ^ k * E ≤ Rm <;> simp [hfits, hrest]

/-- Rule R102: after the normalisation the divisor can be halved 64 times with nothing shifted out. -/
theorem normalised_divisor {d : Nat} (h : d ≤ 2 ^ 127) :
    d <<< clz 192 d = 2 ^ 64 * (d * 2 ^ (clz 192 d - 64)) := by
  rw [Nat.shiftLeft_eq, mul_left_comm, ← pow_add, Nat.add_sub_cancel' (clz_ge h)]

/-- Rules R103, R104: the early stop of the fractional division cannot be observed. -/
theorem fracdiv_eq_longDivision (part : Nat) {d : Nat} (h0 : 0 < d) (h : d ≤ 2 ^ 127) :
    fracdiv part d = longDivision 64 (d <<< clz 192 d) (part <<< clz 192 d) 0 := by
  rw [fracdiv, Config.NW, normalised_divisor h]
  exact fracdivLoop_eq_longDivision (by positivity) 64 _ 0

/-- Rule R104: the fractional division is the floor of `part * 2^64 / d`. -/
theorem fracdiv_eq {part d : Nat} (h : d ≤ 2 ^ 127) (hpart : part < d) : fracdiv part d = part * 2 ^ 64 / d := by
  have hrem : part <<< clz 192 d = part * 2 ^ 64 * 2 ^ (clz 192 d - 64) := by
    rw [Nat.shiftLeft_eq, mul_assoc, ← pow_add, Nat.add_sub_cancel' (clz_ge h)]
  have hlt : part <<< clz 192 d < d <<< clz 192 d := by
    simpa only [Nat.shiftLeft_eq] using Nat.mul_lt_mul_of_pos_right hpart (by positivity)
  rw [fracdiv_eq_longDivision part (by omega) h, normalised_divisor h,
    longDivision_eq 0 (normalised_divisor h ▸ hlt), hrem, Nat.mul_div_mul_right _ _ (by positivity)]
  simp

theorem fracdiv_lt {part d : Nat} (h : d ≤ 2 ^ 127) (hpart : part < d) : fracdiv part d < 2 ^ 64 := by
  rw [fracdiv_eq h hpart, Nat.div_lt_iff_lt_mul (by omega), mul_comm]
  exact Nat.mul_lt_mul_of_pos_left hpart (by positivity)

/-! ## The command -/

/-- Rule R105: the magnitude `CONS` assembles is the quotient of the magnitudes, cut to 128 bits. -/
theorem consMagnitude_eq (ax : Nat) {ay : Nat} (h0 : 0 < ay) (h : ay ≤ 2 ^ 127) :
    consMagnitude ax ay = ax * 2 ^ 64 / ay % 2 ^ 128 := by
  have hpart : ax % ay < ay := Nat.mod_lt _ h0
  have hquot : ax * 2 ^ 64 / ay = ax / ay * 2 ^ 64 + fracdiv (ax % ay) ay := by
    rw [fracdiv_eq h hpart, ← Nat.mul_add_div h0]
    conv_lhs => rw [← Nat.div_add_mod ax ay]
    congr 1
    ring
  have hlt := fracdiv_lt h hpart
  rw [hquot, consMagnitude]
  omega

/-- The value `CONS` writes for `x / y`, `y` not zero (rule R105): the truncated quotient of the magnitudes cut to 128
bits, the sign put on afterwards. `exec_cons_of_ne_zero` ties it to the command. -/
def signedQuotient (x y : Int) : Int :=
  if (x < 0) ≠ (y < 0) then -((x.natAbs * 2 ^ 64 / y.natAbs % 2 ^ 128 : Nat) : Int)
  else ((x.natAbs * 2 ^ 64 / y.natAbs % 2 ^ 128 : Nat) : Int)

/-- Rule R105: the arithmetic of `CONS`, for a divisor with a magnitude the core has. -/
theorem construct_of_ne_zero (x : Int) {y : Int} (h0 : y ≠ 0) (h : y.natAbs ≤ 2 ^ 127) :
    construct x y = .ok (wrap 128 (signedQuotient x y)) := by
  rw [construct, if_neg h0, consMagnitude_eq _ (Int.natAbs_pos.mpr h0) h, signedQuotient]
  by_cases hx : x < 0 <;> by_cases hy : y < 0 <;> simp [hx, hy]

/-- Rules R100, R105: `CONS` by a divisor that is not zero. -/
theorem exec_cons_of_ne_zero {s : State} (h : s.b.toInt ≠ 0) :
    exec .cons s =
      .next { s with r := wrap 128 (signedQuotient s.a.toInt s.b.toInt), err := 0, busy := 0 } := by
  have hval : construct (sint s.a) (sint s.b) = .ok (wrap 128 (signedQuotient s.a.toInt s.b.toInt)) :=
    construct_of_ne_zero _ h (mag_le s.b)
  rw [exec, execCons, hval]
  rfl

/-- Rules R109, R212: `CONS` by zero. -/
theorem exec_cons_of_eq_zero {s : State} (h : s.b.toInt = 0) :
    exec .cons s = .next { s with err := 1, busy := 0 } := by
  have hval : construct (sint s.a) (sint s.b) = .error .divisionByZero := if_pos h
  rw [exec, execCons, hval]
  rfl

end Sys2Proof.Machine

namespace Sys2Proof.Proofs.ConstructFamily

open Sys2Proof.Machine

/-- Settles O36: each iteration appends one bit of the quotient, and after an early stop they are all zero. -/
theorem fracdivClosedForm : Obligations.FracdivClosedForm := by
  unfold Obligations.FracdivClosedForm
  intro part d h0 h hpart
  exact ⟨fracdiv_eq h hpart, fracdiv_lt h hpart, fracdiv_eq_longDivision part h0 h⟩

/-- Settles O37: the integer and the fractional part of the quotient make its low 128 bits. -/
theorem consBuildsTheTruncatedQuotient : Obligations.ConsBuildsTheTruncatedQuotient := by
  unfold Obligations.ConsBuildsTheTruncatedQuotient
  exact ⟨rfl, fun s h => ⟨_, exec_cons_of_ne_zero h, wrap_toNat 128 _⟩⟩

/-- Settles O38: zero is the one divisor refused; at `-2^127` the closed form of the quotient is evaluated. -/
theorem consByZeroRaises : Obligations.ConsByZeroRaises := by
  unfold Obligations.ConsByZeroRaises
  refine ⟨fun s => exec_cons_of_eq_zero, fun s ha hb => ?_, fun s ha hb => ?_⟩
  · have hone : wrap 128 (signedQuotient (-2 ^ 127) (-2 ^ 127)) = ONE := by decide
    rw [exec_cons_of_ne_zero (by rw [hb]; decide), ha, hb, hone]
  · have hzero : wrap 128 (signedQuotient 1 (-2 ^ 127)) = 0 := by decide
    rw [exec_cons_of_ne_zero (by rw [hb]; decide), ha, hb, hzero]

end Sys2Proof.Proofs.ConstructFamily
end

section
/-! The arithmetic family: `wrap` carries the exact arithmetic of raw values to the arithmetic of words, so `ADD`, `SUB`
and `NEG` obey the laws of a ring; `QUO` is the truncated quotient wrapped; the comparisons report a sign (rules R120 to
R129). -/

namespace Sys2Proof.Machine

/-! ## Raw values and their wraps -/

/-- Rule R129: adding raw values modulo `2^N` is adding words. -/
theorem wrap_add_toInt {N : Nat} (x y : BitVec N) : wrap N (x.toInt + y.toInt) = x + y := by
  rw [wrap_eq_ofInt, BitVec.ofInt_add, BitVec.ofInt_toInt, BitVec.ofInt_toInt]

theorem wrap_neg_toInt {N : Nat} (x : BitVec N) : wrap N (-x.toInt) = -x := by
  rw [wrap_eq_ofInt, BitVec.ofInt_neg, BitVec.ofInt_toInt]

theorem wrap_sub_toInt {N : Nat} (x y : BitVec N) : wrap N (x.toInt - y.toInt) = x - y := by
  rw [wrap_eq_ofInt, sub_eq_add_neg, BitVec.ofInt_add, BitVec.ofInt_neg, BitVec.ofInt_toInt, BitVec.ofInt_toInt,
    sub_eq_add_neg]

/-- Rule R127: only the all-zero pattern has the raw value zero. -/
theorem toInt_eq_zero_iff {N : Nat} (x : BitVec N) : x.toInt = 0 ↔ x = 0 := by
  rw [← BitVec.toInt_zero, BitVec.toInt_inj]
  rfl

/-- Rule R123: negation is exact for every raw value but the least. -/
theorem toInt_wrap_neg_of_ne_min {v : Word} (h : v.toInt ≠ -2 ^ 127) : (wrap 128 (-v.toInt)).toInt = -v.toInt := by
  have hge : -2 ^ 127 ≤ v.toInt := BitVec.le_toInt v
  have hlt : v.toInt < 2 ^ 127 := BitVec.toInt_lt
  apply wrap_toInt_of_range <;> omega

/-- Rule R123: the least raw value is its own negation. -/
theorem wrap_neg_of_eq_min {v : Word} (h : v.toInt = -2 ^ 127) : wrap 128 (-v.toInt) = v := by
  have hcongr : -v.toInt % 2 ^ 128 = v.toInt % 2 ^ 128 := by rw [h]; rfl
  rw [wrap_congr hcongr, wrap_toInt]

/-- Rule R10: the truncated quotient, in the library's sign. -/
theorem tdiv_eq_sign_mul (a b : Int) : tdiv a b = a.sign * b.sign * ((a.natAbs / b.natAbs : Nat) : Int) := by
  rw [tdiv, sgn_eq_sign, sgn_eq_sign]

theorem tdiv_eq_zero_of_natAbs_lt {a b : Int} (h : a.natAbs < b.natAbs) : tdiv a b = 0 := by
  rw [tdiv, Nat.div_eq_of_lt h, Nat.cast_zero, mul_zero]

/-! ## The small results -/

/-- Rule R29: the three codes of a sign. -/
theorem signCode_eq_ite (n : Int) : signCode n = if n < 0 then 0b11#2 else if n = 0 then 0b00#2 else 0b01#2 := by
  unfold signCode sgn
  split
  · rfl
  · split <;> rfl

/-- Rule R29: `SR` read as a two's complement number is the sign. -/
theorem signCode_toInt (n : Int) : (signCode n).toInt = n.sign := by
  rw [signCode, sgn_eq_sign]
  obtain h | h | h := n.sign_trichotomy <;> rw [h] <;> rfl

theorem signCode_eq_zero_iff (n : Int) : signCode n = 0b00#2 ↔ n = 0 := by
  rw [← Int.sign_eq_zero_iff_zero, ← signCode_toInt]
  exact (toInt_eq_zero_iff _).symm

theorem truthCode_isNegative (v : Word) :
    truthCode (isNegative v) = if v.toInt < 0 then 0b01#2 else 0b00#2 := by
  by_cases h : v.toInt < 0 <;> simp [truthCode, isNegative, h]

/-- Rule R126: the code of "negative" is the top bit with a zero before it. -/
theorem truthCode_isNegative_eq_topBit (v : Word) : truthCode (isNegative v) = 0#1 ++ v.extractLsb' 127 1 := by
  have htop : v.extractLsb' 127 1 = BitVec.ofBool v.msb := by
    rw [BitVec.msb_eq_getLsbD_last]
    ext i hi
    obtain rfl : i = 0 := by omega
    simp
  have hneg : isNegative v = v.msb := BitVec.msb_eq_toInt.symm
  rw [htop, hneg]
  cases v.msb <;> rfl

/-- Rule R126: `NEG` turns `ISNEG` over for every value that is not zero but the least one. -/
theorem isneg_neg_iff {v : Word} (h : v ≠ 0) :
    (truthCode (isNegative (wrap 128 (-v.toInt))) = 0b01#2 ↔ truthCode (isNegative v) = 0b00#2) ↔
      v.toInt ≠ -2 ^ 127 := by
  have h0 : v.toInt ≠ 0 := mt (toInt_eq_zero_iff v).mp h
  by_cases hmin : v.toInt = -2 ^ 127
  · rw [wrap_neg_of_eq_min hmin, truthCode_isNegative, if_pos (by omega)]
    simp [hmin]
  · rw [truthCode_isNegative, truthCode_isNegative, toInt_wrap_neg_of_ne_min hmin]
    refine iff_of_true ?_ hmin
    obtain hlt | hgt := lt_or_gt_of_ne h0
    · simp [hlt, hlt.le]
    · simp [hgt, hgt.le]

/-! ## The commands -/

theorem exec_add (s : State) :
    exec .add s = .next { s with r := wrap 128 (s.a.toInt + s.b.toInt), err := 0, busy := 0 } := rfl

theorem exec_sub (s : State) :
    exec .sub s = .next { s with r := wrap 128 (s.a.toInt - s.b.toInt), err := 0, busy := 0 } := rfl

theorem exec_neg (s : State) :
    exec .neg s = .next { s with r := wrap 128 (-s.a.toInt), err := 0, busy := 0 } := rfl

theorem exec_cmp (s : State) :
    exec .cmp s = .next { s with sr := signCode (s.a.toInt - s.b.toInt), err := 0, busy := 0 } := rfl

theorem exec_sign (s : State) :
    exec .sign s = .next { s with sr := signCode s.a.toInt, err := 0, busy := 0 } := rfl

theorem exec_isneg (s : State) :
    exec .isneg s = .next { s with sr := truthCode (isNegative s.a), err := 0, busy := 0 } := rfl

theorem exec_iszero (s : State) :
    exec .iszero s = .next { s with sr := if s.a = 0 then 0b01#2 else 0b00#2, err := 0, busy := 0 } := by
  have hsr : truthCode (decide (raw s.a = 0)) = if s.a = 0 then 0b01#2 else 0b00#2 := by
    simp only [truthCode, decide_eq_true_eq, toInt_eq_zero_iff]
  rw [← hsr]
  rfl

/-- Rule R122: `QUO` by a divisor that is not zero. -/
theorem exec_quo_of_ne_zero {s : State} (h : s.b.toInt ≠ 0) :
    exec .quo s = .next { s with r := wrap 128 (tdiv s.a.toInt s.b.toInt), err := 0, busy := 0 } := by
  have hval : rawQuotient (raw s.a) (raw s.b) = .ok (wrap 128 (tdiv s.a.toInt s.b.toInt)) := if_neg h
  rw [exec, execQuo, hval]
  rfl

/-- Rules R122, R212: `QUO` by zero. -/
theorem exec_quo_of_eq_zero {s : State} (h : s.b.toInt = 0) :
    exec .quo s = .next { s with err := 1, busy := 0 } := by
  have hval : rawQuotient (raw s.a) (raw s.b) = .error .divisionByZero := if_pos h
  rw [exec, execQuo, hval]
  rfl

/-! ## The ring of words -/

/-- What `ADD`, `SUB`, `NEG` and `MUL` leave in `R`, as a function of the operands; `exec_r_eq_ringResult` ties it to
these four commands, the only ones it is used for. -/
def ringResult : Instr → Word → Word → Word
  | .add, x, y => x + y
  | .sub, x, y => x - y
  | .neg, x, _ => -x
  | .mul, x, y => wrap 128 (scaledProduct (raw x) (raw y))
  | _, _, _ => ZERO

theorem exec_r_eq_ringResult {i : Instr} (hi : i ∈ [Instr.add, .sub, .neg, .mul]) (s : State) :
    ∃ t, exec i s = .next t ∧ t.r = ringResult i s.a s.b := by
  simp only [List.mem_cons, List.not_mem_nil, or_false] at hi
  obtain rfl | rfl | rfl | rfl := hi
  · exact ⟨_, exec_add s, wrap_add_toInt s.a s.b⟩
  · exact ⟨_, exec_sub s, wrap_sub_toInt s.a s.b⟩
  · exact ⟨_, exec_neg s, wrap_neg_toInt s.a⟩
  · exact ⟨_, rfl, rfl⟩

/-- Rule R143: scaling by the raw value of `ONE` loses nothing. -/
theorem scaledProduct_ONE (a : Int) : scaledProduct a (raw ONE) = a := by
  have hone : raw ONE = 2 ^ 64 := by decide
  rw [scaledProduct, shiftRight, hone, Int.mul_ediv_cancel _ (by positivity)]

theorem scaledProduct_ZERO (a : Int) : scaledProduct a (raw ZERO) = 0 := by
  have hzero : raw ZERO = 0 := by decide
  rw [scaledProduct, shiftRight, hzero, mul_zero, Int.zero_ediv]

end Sys2Proof.Machine

namespace Sys2Proof.Proofs.ArithFamily

open Sys2Proof.Machine

/-- Settles O21: the wrapped truncated quotient, evaluated at the spec's examples; zero is the one divisor refused. -/
theorem quoTruncatesTheRawQuotient : Obligations.QuoTruncatesTheRawQuotient := by
  unfold Obligations.QuoTruncatesTheRawQuotient
  refine ⟨rfl, fun s h0 => ⟨_, exec_quo_of_ne_zero h0, ?value, fun ha hb => ?_, fun ha hb => ?_, fun ha hb => ?_,
    fun ha hb => ?_, fun hlt => ?small⟩, fun s => exec_quo_of_eq_zero⟩
  case value => rw [wrap_toNat, tdiv_eq_sign_mul]
  case small => rw [tdiv_eq_zero_of_natAbs_lt hlt]; rfl
  all_goals rw [ha, hb]; decide

/-- Settles O28: on words `ADD`, `SUB` and `NEG` are the operations of a ring. -/
theorem adderLaws : Obligations.AdderLaws := by
  unfold Obligations.AdderLaws
  refine ⟨ringResult, fun s i hi => exec_r_eq_ringResult hi s, fun s hs => ⟨_, exec_iszero s, if_pos hs⟩,
    add_zero, add_comm, add_assoc, fun x y _ => sub_eq_add_neg x y, fun x => ?_, fun x => ?_⟩
  · rw [ringResult, scaledProduct_ONE, wrap_toInt]
  · rw [ringResult, scaledProduct_ZERO]; rfl

/-- Settles O19: the wrapped sum is the sum of the words. -/
theorem addWrapsTheExactSum : Obligations.AddWrapsTheExactSum := by
  unfold Obligations.AddWrapsTheExactSum
  refine ⟨rfl, fun s => ⟨_, exec_add s, wrap_toNat 128 _, fun hb => ?_, fun ha => ?_, fun ha hb => ?_⟩⟩
  · rw [wrap_add_toInt, hb, add_zero]
  · rw [wrap_add_toInt, ha, zero_add]
  · rw [ha, hb]; decide

/-- Settles O20: the wrapped difference is the difference of the words. -/
theorem subWrapsTheExactDifference : Obligations.SubWrapsTheExactDifference := by
  unfold Obligations.SubWrapsTheExactDifference
  refine ⟨rfl, fun s => ⟨_, exec_sub s, wrap_toNat 128 _, fun h => ?_, fun ha hb => ?_, fun ha hb => ?_⟩⟩
  · rw [wrap_sub_toInt, h, sub_self]
  · rw [ha, hb]; decide
  · rw [ha, hb]; decide

/-- Settles O23: negation is exact but at the least raw value, which it keeps. -/
theorem negWrapsTheNegatedValue : Obligations.NegWrapsTheNegatedValue := by
  unfold Obligations.NegWrapsTheNegatedValue
  refine ⟨rfl, fun s => ⟨_, exec_neg s, wrap_toNat 128 _, fun h => ?_, wrap_neg_of_eq_min,
    toInt_wrap_neg_of_ne_min⟩⟩
  rw [wrap_neg_toInt, h, neg_zero]

/-- Settles O24: the code of the sign of the exact difference; swapping the operands negates the difference. -/
theorem cmpOrdersTheSignedValues : Obligations.CmpOrdersTheSignedValues := by
  unfold Obligations.CmpOrdersTheSignedValues
  refine ⟨rfl, fun s => ⟨_, _, exec_cmp s, ?_, ?_, exec_cmp _, ?_⟩⟩
  · simp only [signCode_eq_ite, sub_neg, sub_eq_zero]
  · rw [signCode_eq_zero_iff, sub_eq_zero, BitVec.toInt_inj]
  · rw [signCode_toInt, signCode_toInt, ← Int.sign_neg, neg_sub]

/-- Settles O25: comparing with zero subtracts nothing. -/
theorem signIsTheSignOfTheRawValue : Obligations.SignIsTheSignOfTheRawValue := by
  unfold Obligations.SignIsTheSignOfTheRawValue
  refine ⟨rfl, fun s => ⟨_, exec_sign s, signCode_toInt _, ?_⟩⟩
  have hzero : ZERO.toInt = 0 := by decide
  rw [exec_cmp, hzero, sub_zero]

/-- Settles O26: the test for a negative value reads the top bit, which `NEG` turns over but at the least value. -/
theorem isnegIsTheTopBit : Obligations.IsnegIsTheTopBit := by
  unfold Obligations.IsnegIsTheTopBit
  exact ⟨rfl, fun s => ⟨_, exec_isneg s, truthCode_isNegative s.a, truthCode_isNegative_eq_topBit s.a,
    fun h => ⟨_, _, exec_neg s, exec_isneg _, isneg_neg_iff h⟩⟩⟩

/-- Settles O27: the test on the value is the test on the pattern. -/
theorem iszeroTestsTheValue : Obligations.IszeroTestsTheValue := by
  unfold Obligations.IszeroTestsTheValue
  exact ⟨rfl, fun s => ⟨exec_iszero s, (toInt_eq_zero_iff s.a).symm⟩⟩

end Sys2Proof.Proofs.ArithFamily
end

section
/-! The multiplier family: `MUL` is the middle of the double-width product, which is its floor in units of the last
place; `MULINT` is the product of the magnitudes rounded half up, with the product's sign (rules R140 to R151). -/

namespace Sys2Proof.Machine

/-! ## The exact product of two raw values -/

/-- Rule R140: `MUL` writes the floor of the rescaled product, wrapped. -/
theorem exec_mul (s : State) :
    exec .mul s = .next { s with r := wrap 128 (s.a.toInt * s.b.toInt / 2 ^ 64), err := 0, busy := 0 } := rfl

/-- Rule R144: the order of the operands does not matter. -/
theorem scaledProduct_comm (a b : Int) : scaledProduct a b = scaledProduct b a := by
  rw [scaledProduct, scaledProduct, mul_comm]

/-- Rule R141: the magnitude of the exact product, from the bounds of the magnitudes. -/
theorem natAbs_product_le (x y : Word) : x.toInt.natAbs * y.toInt.natAbs ≤ 2 ^ 254 :=
  calc x.toInt.natAbs * y.toInt.natAbs ≤ 2 ^ 127 * 2 ^ 127 := Nat.mul_le_mul (mag_le x) (mag_le y)
    _ = 2 ^ 254 := by norm_num

/-- Rule R145: the least exact product, of the least and the greatest raw value. -/
theorem le_product (x y : Word) : -2 ^ 254 + 2 ^ 127 ≤ x.toInt * y.toInt := by
  have hx : -2 ^ 127 ≤ x.toInt := BitVec.le_toInt x
  have hx' : x.toInt ≤ 2 ^ 127 - 1 := Int.le_sub_one_of_lt BitVec.toInt_lt
  have hy : -2 ^ 127 ≤ y.toInt := BitVec.le_toInt y
  have hy' : y.toInt ≤ 2 ^ 127 - 1 := Int.le_sub_one_of_lt BitVec.toInt_lt
  obtain hneg | hpos := le_total x.toInt 0
  · calc -2 ^ 254 + 2 ^ 127 = -2 ^ 127 * (2 ^ 127 - 1 : Int) := by norm_num
      _ ≤ x.toInt * (2 ^ 127 - 1) := Int.mul_le_mul_of_nonneg_right hx (by norm_num)
      _ ≤ x.toInt * y.toInt := Int.mul_le_mul_of_nonpos_left hneg hy'
  · calc -2 ^ 254 + 2 ^ 127 = (2 ^ 127 - 1) * (-2 ^ 127 : Int) := by norm_num
      _ ≤ x.toInt * -2 ^ 127 := Int.mul_le_mul_of_nonpos_right hx' (by norm_num)
      _ ≤ x.toInt * y.toInt := Int.mul_le_mul_of_nonneg_left hy hpos

/-- Rule R145: the greatest exact product, of the least raw value with itself. -/
theorem product_le (x y : Word) : x.toInt * y.toInt ≤ 2 ^ 254 := by
  have h := natAbs_product_le x y
  rw [← Int.natAbs_mul] at h
  omega

/-! ## The double-width product and its parts -/

/-- Rule R141: the product of the sign-extended words is the exact product in 256 bits. -/
theorem signExtend_mul_signExtend (x y : Word) :
    x.signExtend 256 * y.signExtend 256 = wrap 256 (x.toInt * y.toInt) := by
  rw [wrap_eq_ofInt, BitVec.ofInt_mul]
  rfl

theorem toInt_wrap_product (x y : Word) : (wrap 256 (x.toInt * y.toInt)).toInt = x.toInt * y.toInt := by
  have hge := le_product x y
  have hle := product_le x y
  apply wrap_toInt_of_range <;> omega

/-- Rule R141: bits `191:64` of a 256-bit word are its floor in units of `2^64`, wrapped. -/
theorem extractLsb'_wrap (n : Int) : (wrap 256 n).extractLsb' 64 128 = wrap 128 (n / 2 ^ 64) := by
  apply BitVec.eq_of_toNat_eq
  have hword := wrap_toNat 256 n
  have hpart := wrap_toNat 128 (n / 2 ^ 64)
  rw [BitVec.extractLsb'_toNat, Nat.shiftRight_eq_div_pow]
  omega

/-- Rule R142: a raw value is its signed high half and its unsigned low half. -/
theorem toInt_eq_halves (x : Word) :
    x.toInt = (x.extractLsb' 64 64).toInt * 2 ^ 64 + ((x.extractLsb' 0 64).toNat : Int) := by
  conv_lhs => rw [← BitVec.extractLsb'_append_extractLsb' (w := 64) (len := 64) (x := x), BitVec.toInt_append]
  rw [mul_comm]
  rfl

/-- Rule R142: the four partial products. -/
theorem product_eq_partial_products (aH bH aL bL : Int) :
    (aH * 2 ^ 64 + aL) * (bH * 2 ^ 64 + bL) =
      aH * bH * 2 ^ 128 + (aH * bL + aL * bH) * 2 ^ 64 + aL * bL := by
  ring

/-- Rule R142: only the product of the low halves is rounded by the shift. -/
theorem shifted_product_eq_partial_products (aH bH aL bL : Int) :
    (aH * 2 ^ 64 + aL) * (bH * 2 ^ 64 + bL) / 2 ^ 64 =
      aH * bH * 2 ^ 64 + aH * bL + aL * bH + aL * bL / 2 ^ 64 := by
  have hsum : (aH * 2 ^ 64 + aL) * (bH * 2 ^ 64 + bL) =
      (aH * bH * 2 ^ 64 + aH * bL + aL * bH) * 2 ^ 64 + aL * bL := by ring
  rw [hsum, Int.mul_add_ediv_right _ _ (by norm_num)]

/-! ## Rounding, range and overflow -/

/-- Rule R9: `wrap` is exact on the signed range and on nothing else. -/
theorem wrap_toInt_eq_iff {N : Nat} (hN : 0 < N) (n : Int) :
    (wrap N n).toInt = n ↔ -2 ^ (N - 1) ≤ n ∧ n < 2 ^ (N - 1) := by
  refine ⟨fun h => ?_, fun ⟨hge, hlt⟩ => wrap_toInt_of_range hN hge hlt⟩
  rw [← h]
  exact ⟨BitVec.le_toInt _, BitVec.toInt_lt⟩

/-- Rule R143: negating the product negates its floor, or gives one less when the floor is not exact. -/
theorem wrap_neg_floor (N : Nat) (n : Int) :
    wrap N (-n / 2 ^ 64) = if n % 2 ^ 64 = 0 then -wrap N (n / 2 ^ 64) else -wrap N (n / 2 ^ 64) - 1 := by
  have hone : BitVec.ofInt N (-1) = -1 := by rw [BitVec.ofInt_neg]; rfl
  simp only [wrap_eq_ofInt]
  split
  next h =>
    have hfloor : -n / 2 ^ 64 = -(n / 2 ^ 64) := by omega
    rw [hfloor, BitVec.ofInt_neg]
  next h =>
    have hfloor : -n / 2 ^ 64 = -(n / 2 ^ 64) + -1 := by omega
    rw [hfloor, BitVec.ofInt_add, BitVec.ofInt_neg, hone, ← sub_eq_add_neg]

/-- Rules R14, R143: the represented product is the exact product over `2^128`. -/
theorem realOf_mul_realOf (x y : Word) : realOf x * realOf y = ((x.toInt * y.toInt : Int) : Rat) / 2 ^ 128 := by
  simp only [realOf, raw, sint]
  push_cast
  ring

/-- Rule R145: the shifted product is in the signed range exactly when the represented product is in
`[-2^63, 2^63)`. -/
theorem shifted_product_in_range_iff (x y : Word) :
    (-2 ^ 127 ≤ x.toInt * y.toInt / 2 ^ 64 ∧ x.toInt * y.toInt / 2 ^ 64 < 2 ^ 127) ↔
      (-2 ^ 63 ≤ realOf x * realOf y ∧ realOf x * realOf y < 2 ^ 63) := by
  rw [realOf_mul_realOf, le_div_iff₀ (by positivity), div_lt_iff₀ (by positivity),
    Int.le_ediv_iff_mul_le (by norm_num), Int.ediv_lt_iff_lt_mul (by norm_num)]
  have hlow : (-2 ^ 63 * 2 ^ 128 : Rat) = ((-2 ^ 127 * 2 ^ 64 : Int) : Rat) := by norm_num
  have hhigh : (2 ^ 63 * 2 ^ 128 : Rat) = ((2 ^ 127 * 2 ^ 64 : Int) : Rat) := by norm_num
  rw [hlow, hhigh, Int.cast_le, Int.cast_lt]

/-- Rule R143: a word that holds the shifted product is the represented product rounded down by less than one unit of
the last place. -/
theorem realOf_floor {x y v : Word} (h : v.toInt = x.toInt * y.toInt / 2 ^ 64) :
    realOf v ≤ realOf x * realOf y ∧ realOf x * realOf y < realOf v + 1 / 2 ^ 64 := by
  have hle : v.toInt * 2 ^ 64 ≤ x.toInt * y.toInt := by omega
  have hlt : x.toInt * y.toInt < (v.toInt + 1) * 2 ^ 64 := by omega
  have hle' : (v.toInt : Rat) * 2 ^ 64 ≤ (x.toInt * y.toInt : Int) := by exact_mod_cast hle
  have hlt' : ((x.toInt * y.toInt : Int) : Rat) < (v.toInt + 1) * 2 ^ 64 := by exact_mod_cast hlt
  rw [realOf_mul_realOf]
  simp only [realOf, raw, sint]
  constructor <;> linarith

/-- Rule R123: as words and as integers, negation agrees on every value but the least. -/
theorem toInt_neg_of_ne_min {v : Word} (h : v.toInt ≠ -2 ^ 127) : (-v).toInt = -v.toInt := by
  rw [← wrap_neg_toInt, toInt_wrap_neg_of_ne_min h]

/-! ## The integer product -/

/-- A term selected by a bit is the term times the bit. -/
theorem ite_bit_eq_mul (q t : Nat) : (if q % 2 = 1 then t else 0) = q % 2 * t := by
  obtain h | h := Nat.mod_two_eq_zero_or_one q
  · rw [h, if_neg zero_ne_one, zero_mul]
  · rw [h, if_pos rfl, one_mul]

/-- Rule R147: with nothing shifted out of `D = 2^64 E`, the first `64 - k` iterations add up `E` times the upper bits
of `lo`, the `k` bits still to come left out. -/
theorem hydrateSum_eq {lo : Nat} (hlo : lo < 2 ^ 64) (E : Nat) {n k : Nat} (h : n + k = 64) :
    hydrateSum lo (2 ^ 64 * E) n = lo / 2 ^ k * (2 ^ k * E) := by
  induction n generalizing k with
  | zero =>
    obtain rfl : k = 64 := by omega
    rw [hydrateSum, Nat.div_eq_of_lt hlo, zero_mul]
  | succ n ih =>
    have hbit : bitAt lo (64 - (n + 1)) = lo / 2 ^ k % 2 := by
      rw [bitAt, Nat.shiftRight_eq_div_pow, ← h, Nat.add_sub_cancel_left]
    have hterm : (2 ^ 64 * E) >>> (n + 1) = 2 ^ k * E := by
      rw [Nat.shiftRight_eq_div_pow, ← h, pow_add, mul_assoc, Nat.mul_div_cancel_left _ (by positivity)]
    have hupper : lo / 2 ^ (k + 1) = lo / 2 ^ k / 2 := by rw [pow_succ, Nat.div_div_eq_div_mul]
    rw [hydrateSum, ih (k := k + 1) (by omega), hbit, hterm, hupper, ite_bit_eq_mul]
    calc lo / 2 ^ k / 2 * (2 ^ (k + 1) * E) + lo / 2 ^ k % 2 * (2 ^ k * E)
        = (2 * (lo / 2 ^ k / 2) + lo / 2 ^ k % 2) * (2 ^ k * E) := by ring
      _ = lo / 2 ^ k * (2 ^ k * E) := by rw [Nat.div_add_mod]

/-- Rule R147: dropping `m + 1` bits and adding the highest of them rounds half up. -/
theorem shiftRight_add_bitAt (n m : Nat) : (n >>> (m + 1)) + bitAt n m = (n + 2 ^ m) / 2 ^ (m + 1) := by
  have hhalf : (n + 2 ^ m) / 2 ^ m = n / 2 ^ m + 1 := Nat.add_div_right _ (by positivity)
  rw [bitAt, Nat.shiftRight_eq_div_pow, Nat.shiftRight_eq_div_pow, pow_succ, ← Nat.div_div_eq_div_mul,
    ← Nat.div_div_eq_div_mul, hhalf]
  omega

/-- Rule R148: `hydrate` in closed form. -/
theorem hydrate_eq {lo d : Nat} (hlo : lo < 2 ^ 64) (hd : d ≤ 2 ^ 127) :
    hydrate lo d = (lo * d + 2 ^ 63) / 2 ^ 64 := by
  obtain ⟨k, hk⟩ : ∃ k, clz 192 d = k + 63 + 1 := ⟨clz 192 d - 64, by have := clz_ge hd; omega⟩
  have hsum : hydrateSum lo (d <<< clz 192 d) 64 = lo * d * 2 ^ k := by
    have hk' : clz 192 d - 64 = k := by omega
    rw [normalised_divisor hd, hydrateSum_eq hlo _ (k := 0) rfl, hk', pow_zero, Nat.div_one, one_mul, mul_assoc]
  have hscale : (lo * d * 2 ^ k + 2 ^ (k + 63)) / 2 ^ (k + 63 + 1) = (lo * d + 2 ^ 63) / 2 ^ 64 := by
    rw [add_assoc k 63 1, pow_add, pow_add, mul_comm (lo * d), ← mul_add,
      Nat.mul_div_mul_left _ _ (by positivity)]
  rw [hydrate, Config.NW, hsum, hk, if_neg (by omega), Nat.add_sub_cancel, shiftRight_add_bitAt, hscale]

/-- Rules R146, R149: the two parts of a magnitude times an integer are its whole product rounded half up. -/
theorem hiPart_mul_add_hydrate (v : Word) {d : Nat} (hd : d ≤ 2 ^ 127) :
    hiPart v * d + hydrate (loPart v) d = (mag v * d + 2 ^ 63) / 2 ^ 64 := by
  have hwhole : 2 ^ 64 * (hiPart v * d) + (loPart v * d + 2 ^ 63) = mag v * d + 2 ^ 63 := by
    rw [mag_eq_halves v]
    ring
  rw [hydrate_eq (loPart_lt v) hd, ← Nat.mul_add_div (by positivity), hwhole]

/-- Rule R146: the sign `MULINT` puts on a magnitude is the product's, given that it is zero for a zero value. -/
theorem ite_xor_neg_eq_sign_mul_sign_mul {x y : Int} (hy : y ≠ 0) {n : Int} (hn : x = 0 → n = 0) :
    (if xor (decide (x < 0)) (decide (y < 0)) then -n else n) = x.sign * y.sign * n := by
  obtain hx | rfl | hx := lt_trichotomy x 0
  · obtain hy | hy := lt_or_gt_of_ne hy
    · simp [Int.sign_eq_neg_one_of_neg, hx, hy]
    · simp [Int.sign_eq_neg_one_of_neg, Int.sign_eq_one_of_pos, hx, hy, hy.le]
  · simp [hn rfl]
  · obtain hy | hy := lt_or_gt_of_ne hy
    · simp [Int.sign_eq_neg_one_of_neg, Int.sign_eq_one_of_pos, hx, hy, hx.le]
    · simp [Int.sign_eq_one_of_pos, hx, hy, hx.not_gt, hy.not_gt]

/-- The closed form of `MULINT`'s value (rules R149, R150); `integerProduct_eq` ties it to the command. -/
def roundedProduct (x y : Int) : Int :=
  if y = 0 then 0
  else if y = 1 then x.sign * ((x.natAbs / 2 ^ 64 : Nat) : Int)
  else x.sign * y.sign * (((x.natAbs * y.natAbs + 2 ^ 63) / 2 ^ 64 : Nat) : Int)

theorem integerProduct_eq (v : Word) {y : Int} (hy : y.natAbs ≤ 2 ^ 127) :
    integerProduct v y = roundedProduct v.toInt y := by
  unfold integerProduct roundedProduct
  split
  next => rfl
  next h0 =>
    split
    next => rw [sgn_eq_sign, hiPart, Nat.shiftRight_eq_div_pow]; rfl
    next =>
      rw [hiPart_mul_add_hydrate v hy]
      exact ite_xor_neg_eq_sign_mul_sign_mul h0 fun hv => by simp [mag, raw, sint, hv]

/-- A sign times a magnitude is no larger than the magnitude. -/
theorem natAbs_sign_mul_le (x n : Int) : (x.sign * n).natAbs ≤ n.natAbs := by
  rw [Int.natAbs_mul, Int.natAbs_sign]
  split <;> simp

/-- Rule R151: the rounded product fits `IR` with a bit to spare. -/
theorem natAbs_roundedProduct_le (x y : Word) : (roundedProduct x.toInt y.toInt).natAbs ≤ 2 ^ 190 := by
  unfold roundedProduct
  split
  next => simp
  next =>
    split
    next =>
      have hx : x.toInt.natAbs ≤ 2 ^ 127 := mag_le x
      refine (natAbs_sign_mul_le _ _).trans ?_
      rw [Int.natAbs_natCast]
      omega
    next =>
      have hxy := natAbs_product_le x y
      rw [mul_assoc]
      refine (natAbs_sign_mul_le _ _).trans ((natAbs_sign_mul_le _ _).trans ?_)
      rw [Int.natAbs_natCast]
      omega

/-- Rules R146, R149: what `MULINT` writes. -/
theorem exec_mulint (s : State) :
    exec .mulint s =
      .next { s with ir := wrap 192 (roundedProduct s.a.toInt s.b.toInt), err := 0, busy := 0 } := by
  rw [← integerProduct_eq s.a (mag_le s.b)]
  rfl

/-- Rule R151: `IR` holds the rounded product exactly. -/
theorem toInt_wrap_roundedProduct (x y : Word) :
    (wrap 192 (roundedProduct x.toInt y.toInt)).toInt = roundedProduct x.toInt y.toInt := by
  have h := natAbs_roundedProduct_le x y
  apply wrap_toInt_of_range <;> omega

end Sys2Proof.Machine

namespace Sys2Proof.Proofs.MulFamily

open Sys2Proof.Machine

/-- Settles O29: the wrapped floor of the rescaled product, evaluated at 0.5 times 0.5. -/
theorem mulFloorsTheRescaledProduct : Obligations.MulFloorsTheRescaledProduct := by
  unfold Obligations.MulFloorsTheRescaledProduct
  refine ⟨rfl, fun s => ⟨_, exec_mul s, wrap_toNat 128 _, fun ha hb => ?_⟩⟩
  rw [ha, hb]; decide

/-- Settles O30: the product is exact in 256 bits, and a raw value is its two halves. -/
theorem mulIsTheMiddleOfTheDoubleWidthProduct : Obligations.MulIsTheMiddleOfTheDoubleWidthProduct := by
  unfold Obligations.MulIsTheMiddleOfTheDoubleWidthProduct
  rintro s t aH bH aL bL h rfl rfl rfl rfl
  rw [exec_mul] at h
  cases h
  have ha := toInt_eq_halves s.a
  have hb := toInt_eq_halves s.b
  have hproduct := product_eq_partial_products (s.a.extractLsb' 64 64).toInt (s.b.extractLsb' 64 64).toInt
    (s.a.extractLsb' 0 64).toNat (s.b.extractLsb' 0 64).toNat
  have hshifted := shifted_product_eq_partial_products (s.a.extractLsb' 64 64).toInt (s.b.extractLsb' 64 64).toInt
    (s.a.extractLsb' 0 64).toNat (s.b.extractLsb' 0 64).toNat
  rw [← ha, ← hb] at hproduct hshifted
  refine ⟨?_, ?_, ?_, ha, hb, hproduct, hshifted, ?_⟩
  · rw [signExtend_mul_signExtend, extractLsb'_wrap]
  · rw [signExtend_mul_signExtend, toInt_wrap_product]
  · rw [Int.natAbs_mul]; exact natAbs_product_le s.a s.b
  · exact (wrap_toNat 128 _).trans (congrArg (· % 2 ^ 128) hshifted)

/-- Settles O31: the floor of the exact product bounds the represented one; the examples are evaluated. -/
theorem mulRoundsTowardMinusInfinity : Obligations.MulRoundsTowardMinusInfinity := by
  unfold Obligations.MulRoundsTowardMinusInfinity
  refine fun s => ⟨_, _, exec_mul s, exec_mul { s with a := -s.a }, ?floor, fun hge hlt => ?bounds,
    fun hmin => ?negated, fun ha hb => ?_, fun ha hb => ?_, fun ha hb => ?_, fun ha hb => ?_, fun ha hb => ?_,
    fun ha hb => ?_⟩
  case floor =>
    have hfloor : ⌊(s.a.toInt * s.b.toInt : Rat) / 2 ^ 64⌋ = s.a.toInt * s.b.toInt / 2 ^ 64 := by
      exact_mod_cast Rat.floor_intCast_div_natCast (s.a.toInt * s.b.toInt) (2 ^ 64)
    rw [wrap_toNat, hfloor]
  case bounds =>
    obtain ⟨hge', hlt'⟩ := (shifted_product_in_range_iff s.a s.b).mpr ⟨hge, hlt⟩
    exact realOf_floor (wrap_toInt_of_range (by norm_num) hge' hlt')
  case negated =>
    rw [toInt_neg_of_ne_min hmin, neg_mul, wrap_neg_floor]
  all_goals rw [ha, hb]; decide

/-- Settles O32: the product of integers commutes and has the raw value of `ONE` as the unit of its scale; rounding a
small product to zero breaks associativity. -/
theorem mulIdentityZeroAndCommutativity : Obligations.MulIdentityZeroAndCommutativity := by
  unfold Obligations.MulIdentityZeroAndCommutativity
  refine ⟨ringResult .mul, fun s => rfl, fun x => ?_, fun x => ?_, fun x => ?_, fun x => ?_, fun x y => ?_,
    1, 0x8000000000000000#128, 0x2_0000000000000000#128, by decide⟩
  · rw [ringResult, scaledProduct_ONE, wrap_toInt]
  · rw [ringResult, scaledProduct_comm, scaledProduct_ONE, wrap_toInt]
  · rw [ringResult, scaledProduct_ZERO]; rfl
  · rw [ringResult, scaledProduct_comm, scaledProduct_ZERO]; rfl
  · rw [ringResult, scaledProduct_comm, ← ringResult]

/-- Settles O33: the bounds of the exact product, shifted; the wrap is exact on the signed range only. -/
theorem mulRangeAndOverflow : Obligations.MulRangeAndOverflow := by
  unfold Obligations.MulRangeAndOverflow
  intro s
  have hge := le_product s.a s.b
  have hle := product_le s.a s.b
  refine ⟨_, exec_mul s, by omega, by omega, fun ha hb => ?_, fun ha hb => ?_, ?exact, ?represented,
    wrap_toNat 128 _⟩
  case exact => exact wrap_toInt_eq_iff (by norm_num) _
  case represented => exact (wrap_toInt_eq_iff (by norm_num) _).trans (shifted_product_in_range_iff s.a s.b)
  all_goals rw [ha, hb]; decide

/-- Settles O34: the rounded product of the magnitudes with the product's sign, within the range of `IR`. -/
theorem mulintRoundsTheExactProduct : Obligations.MulintRoundsTheExactProduct := by
  unfold Obligations.MulintRoundsTheExactProduct
  refine ⟨rfl, fun s => ⟨_, exec_mulint s, ?_⟩⟩
  rw [toInt_wrap_roundedProduct]
  refine ⟨rfl, natAbs_roundedProduct_le s.a s.b, fun ha hb => ?_⟩
  rw [ha, hb]; decide

/-- Settles O35: the rounding of the sum of the selected shifts, which lose nothing. -/
theorem hydrateClosedForm : Obligations.HydrateClosedForm := by
  unfold Obligations.HydrateClosedForm
  exact fun lo d hlo _ hd => hydrate_eq hlo hd

end Sys2Proof.Proofs.MulFamily
end

section
/-! The byte family: the digits of a big-endian string, the value of a sign-magnitude string, and the statements on
`TOB16`, `TOSM`, `FROMSM` and their round trip (rules R160 to R166). -/

namespace Sys2Proof.Machine

/-! ## Big-endian strings -/

/-- Rule R11: byte `i` of a `k`-byte big-endian string has `8 * (k - 1 - i)` bits below it. -/
theorem be_getD {k i : Nat} (h : i < k) (n : Nat) :
    (be k n).getD i 0 = BitVec.ofNat 8 (n >>> (8 * (k - 1 - i))) := by
  induction k generalizing i with
  | zero => omega
  | succ k ih =>
    cases i with
    | zero => rfl
    | succ i =>
      have hrest : k + 1 - 1 - (i + 1) = k - 1 - i := by omega
      rw [be, List.getD_cons_succ, ih (by omega), hrest]

/-- Rule R11: a big-endian string has no byte for the bits above its width. -/
theorem be_mod (k n : Nat) : be k (n % 256 ^ k) = be k n := by
  have h := be_beval (be k n)
  rwa [be_length, beval_be] at h

/-- Rule R11: a big-endian string cut into its first `j` bytes and its last `k`. -/
theorem be_add (j k n : Nat) : be (j + k) n = be j (n >>> (8 * k)) ++ be k n := by
  induction j with
  | zero => rw [Nat.zero_add, be, List.nil_append]
  | succ j ih => rw [Nat.succ_add, be, ih, be, List.cons_append, ← Nat.shiftRight_add, ← mul_add, add_comm k]

/-- Rule R11: the value of a string as the sum of its digits in base 256. -/
theorem beval_ofFn {k : Nat} (f : Fin k → Byte) :
    beval (List.ofFn f) = ∑ i : Fin k, (f i).toNat * 256 ^ (k - 1 - i.val) := by
  induction k with
  | zero => rfl
  | succ k ih =>
    rw [List.ofFn_succ, beval_cons, ih, Fin.sum_univ_succ, List.length_ofFn]
    congr 1
    refine Finset.sum_congr rfl fun i _ => ?_
    have hexp : k - 1 - i.val = k + 1 - 1 - i.succ.val := by rw [Fin.val_succ]; omega
    rw [hexp]

/-- Rule R9: wrapping a number that fits leaves it as it is. -/
theorem toNat_wrap_natCast {N n : Nat} (h : n < 2 ^ N) : (wrap N n).toNat = n := by
  rw [wrap_eq_ofInt, BitVec.ofInt_natCast, BitVec.toNat_ofNat, Nat.mod_eq_of_lt h]

/-! ## The sign-magnitude form -/

/-- Rule R165: the magnitude fits 16 bytes. -/
theorem mag_lt (v : Word) : mag v < 256 ^ 16 :=
  (mag_le v).trans_lt (by norm_num)

/-- Rules R14, R165: the 16 bytes of the magnitude are its integer part and its fractional part. -/
theorem be_mag_eq_halves (v : Word) : be 16 (mag v) = be 8 (hiPart v) ++ be 8 (loPart v) :=
  calc be 16 (mag v) = be 8 (hiPart v) ++ be 8 (mag v) := be_add 8 8 (mag v)
    _ = be 8 (hiPart v) ++ be 8 (loPart v) := by rw [← be_mod 8 (mag v)]; rfl

theorem sm17_eq (v : Word) : sm17 v = (if v.toInt < 0 then 1 else 0) :: be 16 (mag v) := by
  simp only [sm17, isNegative, decide_eq_true_eq]
  rfl

/-- Rule R166: the integer that a 17-byte string with sign byte 0 or 1 stands for, before it is wrapped. -/
def signedMagnitude (l : List Byte) : Int :=
  if (l.getD 0 0).toNat = 1 then -(beval (l.drop 1) : Int) else beval (l.drop 1)

theorem slice_one_of_length {l : List Byte} (h : l.length = 17) : slice l 1 17 = l.drop 1 := by
  rw [slice, List.take_of_length_le h.le]

theorem unsm17_eq {l : List Byte} (h : l.length = 17) : unsm17 l = wrap 128 (signedMagnitude l) := by
  have hsign : l.getD 0 0 = 0x01#8 ↔ (l.getD 0 0).toNat = 1 := BitVec.toNat_inj.symm
  simp only [unsm17, signedMagnitude, slice_one_of_length h, hsign]

theorem signedMagnitude_sm17 (v : Word) : signedMagnitude (sm17 v) = v.toInt := by
  have hmag : beval ((sm17 v).drop 1) = mag v := by
    rw [← slice_one_of_length (sm17_length v), sm17_tail, beval_be, Nat.mod_eq_of_lt (mag_lt v)]
  have hsign : ((sm17 v).getD 0 0).toNat = 1 ↔ isNegative v = true := BitVec.toNat_inj.trans (sm17_sign_eq v)
  rw [signedMagnitude, hmag]
  simp only [hsign]
  exact (raw_eq_signed_mag v).symm

/-- Rule R164: reading the bytes written for a raw value gives it back. -/
theorem unsm17_sm17 (v : Word) : unsm17 (sm17 v) = v := by
  rw [unsm17_eq (sm17_length v), signedMagnitude_sm17, wrap_toInt]

/-- Rules R164, R165: a string that stands for `v` and is not the negative zero is the form of `v`. -/
theorem sm17_of_signedMagnitude {l : List Byte} {v : Word} (hlen : l.length = 17) (hsign : (l.getD 0 0).toNat ≤ 1)
    (hv : v.toInt = signedMagnitude l) (hzero : ¬((l.getD 0 0).toNat = 1 ∧ beval (l.drop 1) = 0)) : sm17 v = l := by
  obtain ⟨c, t, rfl⟩ : ∃ c t, l = c :: t := List.exists_cons_of_length_eq_add_one hlen
  have hbytes : be 16 (beval t) = t := by
    have ht : t.length = 16 := by simpa using hlen
    rw [← ht, be_beval]
  simp only [signedMagnitude, List.getD_cons_zero, List.drop_one, List.tail_cons] at hsign hv hzero
  have hmag : mag v = beval t := by rw [mag, raw, sint, hv]; split <;> simp
  rw [sm17_eq, hmag, hbytes]
  congr 1
  apply BitVec.eq_of_toNat_eq
  obtain hc | hc : c.toNat = 0 ∨ c.toNat = 1 := by omega
  · have hneg : ¬v.toInt < 0 := by rw [hv, hc]; simp
    rw [if_neg hneg, hc]
    rfl
  · have hneg : v.toInt < 0 := by rw [hv, if_pos hc]; omega
    rw [if_pos hneg, hc]
    rfl

/-- Rules R164, R165: no value has the negative zero as its form, zero having the sign byte 0. -/
theorem sm17_ne_negative_zero (v : Word) :
    ¬(((sm17 v).getD 0 0).toNat = 1 ∧ beval ((sm17 v).drop 1) = 0) := by
  rintro ⟨hsign, hmag⟩
  have hneg : raw v < 0 := of_decide_eq_true ((sm17_sign_eq v).mp (BitVec.eq_of_toNat_eq hsign))
  have hv : v.toInt = 0 := by rw [← signedMagnitude_sm17 v, signedMagnitude, if_pos hsign, hmag]; rfl
  exact hneg.ne hv

/-- Rules R164, R166: the wrap leaves a magnitude with its sign as it is up to `2^127 - 1`, or `2^127` when negative. -/
theorem toInt_unsm17_iff {l : List Byte} (hlen : l.length = 17) (hsign : (l.getD 0 0).toNat ≤ 1) :
    (unsm17 l).toInt = signedMagnitude l ↔ beval (l.drop 1) ≤ 2 ^ 127 - 1 + (l.getD 0 0).toNat := by
  rw [unsm17_eq hlen, wrap_toInt_eq_iff (by norm_num), signedMagnitude]
  split <;> omega

/-- Rule R164: the strings that come back are those whose value is not wrapped, but for the negative zero. -/
theorem sm17_unsm17_iff {l : List Byte} (hlen : l.length = 17) (hsign : (l.getD 0 0).toNat ≤ 1) :
    sm17 (unsm17 l) = l ↔ (unsm17 l).toInt = signedMagnitude l ∧
      ¬((l.getD 0 0).toNat = 1 ∧ beval (l.drop 1) = 0) := by
  constructor
  · intro h
    have hv := signedMagnitude_sm17 (unsm17 l)
    have hzero := sm17_ne_negative_zero (unsm17 l)
    rw [h] at hv hzero
    exact ⟨hv.symm, hzero⟩
  · rintro ⟨hv, hzero⟩
    exact sm17_of_signedMagnitude hlen hsign hv hzero

/-- Rule R162: the strings `TOSM` writes have a legal sign byte. -/
theorem valueOfBytes_sm17 (v : Word) : valueOfBytes (sm17 v) = .ok v := by
  rw [valueOfBytes, if_neg (sm17_sign_le v).not_gt, unsm17_sm17]

/-- Rule R166: the sign byte of a 17-byte buffer. -/
theorem getD_zero_toList (v : Vector Byte 17) : v.toList.getD 0 0 = v[0] := by
  simp

/-- Rule R166: the bytes after the sign byte of a 17-byte buffer, as digits in base 256. -/
theorem beval_drop_one (v : Vector Byte 17) :
    beval (v.toList.drop 1) = ∑ i : Fin 16, (v[i.val + 1]).toNat * 256 ^ (15 - i.val) := by
  have hdigits : v.toList.drop 1 = List.ofFn fun i : Fin 16 => v[i.val + 1] := by
    apply List.ext_getElem
    · simp
    · intro i _ _
      rw [List.getElem_drop, List.getElem_ofFn, Vector.getElem_toList]
      simp only [add_comm]
  rw [hdigits, beval_ofFn]

/-! ## The commands -/

/-- Rule R160: `TOB16` writes the bytes of the word. -/
theorem exec_tob16 (s : State) :
    exec .tob16 s = .next { s with ob := buffer 17 (be 16 s.a.toNat), oblen := 16, err := 0, busy := 0 } := rfl

/-- Rule R161: `TOSM` writes the sign-magnitude form. -/
theorem exec_tosm (s : State) :
    exec .tosm s = .next { s with ob := buffer 17 (sm17 s.a), oblen := 17, err := 0, busy := 0 } := rfl

/-- Rule R162: the value of a string with sign byte 0 or 1. -/
theorem exec_fromsm_of_sign_le {s : State} (h : (s.ib[0]).toNat ≤ 1) :
    exec .fromsm s = .next { s with r := wrap 128 (signedMagnitude s.ib.toList), err := 0, busy := 0 } := by
  have hval : valueOfBytes s.ib.toList = .ok (wrap 128 (signedMagnitude s.ib.toList)) := by
    rw [valueOfBytes, getD_zero_toList, if_neg h.not_gt, unsm17_eq s.ib.length_toList]
  rw [exec, execFromsm, hval]
  rfl

/-- Rule R162: a sign byte of 2 or more raises `InvalidBase64`. -/
theorem exec_fromsm_of_sign_gt {s : State} (h : 1 < (s.ib[0]).toNat) :
    exec .fromsm s = .next { s with err := 5, busy := 0 } := by
  have hval : valueOfBytes s.ib.toList = .error .invalidBase64 := by
    rw [valueOfBytes, getD_zero_toList, if_pos h]
  rw [exec, execFromsm, hval]
  rfl

/-- Rule R164: `FROMSM` of a form that `TOSM` writes. -/
theorem exec_fromsm_of_sm17 {s : State} {v : Word} (h : s.ib.toList = sm17 v) :
    exec .fromsm s = .next { s with r := v, err := 0, busy := 0 } := by
  rw [exec, execFromsm, h, valueOfBytes_sm17]
  rfl

/-! ## Script lines on an idle core -/

/-- Rule R72: every command is the one its code decodes to. -/
theorem decode_encode (i : Instr) : decode (encode i) = .ok i := by
  cases i <;> rfl

/-- Rules R55, R74: a `CMD` line issues its command and completes it. -/
theorem runScript_cmd {i : Instr} {rest : List ScriptLine} {s t : State} (hidle : s.busy = 0)
    (h : exec i (s.issue (encode i)) = .next t) : runScript (.cmd i :: rest) s = runScript rest t := by
  apply runScript_cons rfl
  rw [hostActs, hostAct_cmd_of_idle hidle, runCode, decode_encode]
  simp only [h, hostActs]

/-- Rule R75: `MVB` reads `OB` and writes it to `IB`. -/
theorem runScript_mvb {rest : List ScriptLine} {s : State} (hidle : s.busy = 0) :
    runScript (.mvb :: rest) s = runScript rest { s with ib := s.ob, seen := s.seen ++ [.ob s.ob] } := by
  apply runScript_cons rfl
  simp [hostActs, hostAct, hidle, State.applyWrite, State.read]

end Sys2Proof.Machine

namespace Sys2Proof.Proofs.BytesFamily

open Sys2Proof.Machine

/-- Settles O42: the 16 bytes and the raw value are the same 128-bit number. -/
theorem sixteenByteFormIsABijection : Obligations.SixteenByteFormIsABijection := by
  unfold Obligations.SixteenByteFormIsABijection
  refine ⟨fun v => BitVec.eq_of_toNat_eq ?_, fun l hlen => ?_⟩
  · have hfit : beval (be 16 v.toNat) = v.toNat := by rw [beval_be]; exact Nat.mod_eq_of_lt v.isLt
    rw [hfit, toNat_wrap_natCast v.isLt]
  · have hfit : beval l < 2 ^ 128 := by simpa [hlen] using beval_lt l
    rw [toNat_wrap_natCast hfit, ← hlen, be_beval]

/-- Settles O43: the sign-magnitude form fills the buffer; its bytes after the first are the digits of the magnitude. -/
theorem tosmIsSignThenMagnitude : Obligations.TosmIsSignThenMagnitude := by
  unfold Obligations.TosmIsSignThenMagnitude
  refine ⟨rfl, fun s => ⟨_, exec_tosm s, ?sign, fun i hi => ?digit, buffer_toList_of_length (sm17_length s.a), ?halves⟩⟩
  case sign => rw [buffer_getElem, sm17_eq, List.getD_cons_zero]
  case digit =>
    obtain ⟨j, hj⟩ : ∃ j, i.val = j + 1 := Nat.exists_eq_add_of_le' hi
    have hbelow : 16 - 1 - j = 16 - (j + 1) := by omega
    rw [Fin.getElem_fin, buffer_getElem, sm17_eq, hj, List.getD_cons_succ, be_getD (by omega), BitVec.toNat_ofNat,
      Nat.shiftRight_eq_div_pow, hbelow]
    rfl
  case halves => rw [sm17_eq, be_mag_eq_halves]

/-- Settles O44: the 17 bytes stand for sign times magnitude, which is wrapped; the sign byte is checked first. -/
theorem fromsmReadsSignAndMagnitude : Obligations.FromsmReadsSignAndMagnitude := by
  unfold Obligations.FromsmReadsSignAndMagnitude
  refine ⟨rfl, fun s hsign => ⟨_, exec_fromsm_of_sign_le hsign, ?_⟩, fun s => exec_fromsm_of_sign_gt⟩
  rw [wrap_toNat, signedMagnitude, getD_zero_toList, beval_drop_one]
  push_cast
  rw [ite_mul, neg_one_mul, one_mul]

/-- Settles O45: each of the three lines runs on an idle core; the strings that come back stand for a value in range. -/
theorem byteFormRoundTrip : Obligations.ByteFormRoundTrip := by
  unfold Obligations.ByteFormRoundTrip
  refine ⟨fun s hidle => ?_, fun l hlen hsign => ?_⟩
  · have hcopied : (buffer 17 (sm17 s.a)).toList = sm17 s.a := buffer_toList_of_length (sm17_length s.a)
    rw [runScript_cmd hidle (exec_tosm _), runScript_mvb rfl]
    exact ⟨_, runScript_cmd rfl (exec_fromsm_of_sm17 hcopied), rfl, rfl, rfl⟩
  · rw [sm17_unsm17_iff hlen hsign, toInt_unsm17_iff hlen hsign]

/-- Settles O41: each byte of the big-endian string is a slice of the word. -/
theorem tob16IsTheBigEndianWord : Obligations.Tob16IsTheBigEndianWord := by
  unfold Obligations.Tob16IsTheBigEndianWord
  refine ⟨rfl, fun s => ⟨_, exec_tob16 s, fun i => ?_, ?_⟩⟩
  · have hbelow : 8 * (16 - 1 - i.val) = 120 - 8 * i.val := by omega
    rw [buffer_getElem, be_getD i.isLt, hbelow]
    rfl
  · rw [buffer_getElem, List.getD_eq_default _ _ (be_length 16 _).le]

end Sys2Proof.Proofs.BytesFamily
end

section
/-! The hex family: the characters of the texts and their values, the hex text of a byte string and its numeral, what
`TOHEX` and `TOHEXP` print and what `FROMHEX` reads or rejects (rules R175 to R183, R196, R213 to R215). -/

namespace Sys2Proof.Machine

open Sys2Proof.Safety

/-! ## Characters -/

/-- Rule R176: which characters are digits, and what each is worth. -/
theorem hexVal_eq_some_iff (c : Byte) (n : Nat) : hexVal c = some n ↔
    (n < 10 ∧ c.toNat = 0x30 + n) ∨
      (10 ≤ n ∧ n < 16 ∧ (c.toNat = 0x41 + (n - 10) ∨ c.toNat = 0x61 + (n - 10))) := by
  unfold hexVal
  split_ifs <;> simp only [Option.some.injEq, false_iff] <;> omega

/-- Rule R176: a digit is worth less than 16; a byte that is no digit counts as 0. -/
theorem hexVal_getD_lt (c : Byte) : (hexVal c).getD 0 < 16 := by
  cases h : hexVal c with
  | none => simp
  | some n =>
    have hn := (hexVal_eq_some_iff c n).mp h
    rw [Option.getD_some]
    omega

/-- Rule R176: the whitespace codes are the block 9 to 13, and the space. -/
theorem isSpace_iff (c : Byte) : isSpace c = true ↔ c.toNat ∈ [0x09, 0x0A, 0x0B, 0x0C, 0x0D, 0x20] := by
  simp only [isSpace, Bool.or_eq_true, decide_eq_true_eq, List.mem_cons, List.not_mem_nil, or_false]
  omega

/-- Rule R196: the code of each character of the alphabet. -/
theorem toNat_b64char {n : Nat} (h : n < 64) : (b64char n).toNat =
    if n < 26 then 0x41 + n else if n < 52 then 0x61 + (n - 26)
    else if n < 62 then 0x30 + (n - 52) else if n = 62 then 0x2B else 0x2F := by
  interval_cases n <;> rfl

/-- Rule R196: the five ranges of the alphabet. -/
theorem b64val_eq_some_iff_code (c : Byte) (n : Nat) : b64val c = some n ↔
    (n < 26 ∧ c.toNat = 0x41 + n) ∨ (26 ≤ n ∧ n < 52 ∧ c.toNat = 0x61 + (n - 26)) ∨
      (52 ≤ n ∧ n < 62 ∧ c.toNat = 0x30 + (n - 52)) ∨ (n = 62 ∧ c.toNat = 0x2B) ∨ (n = 63 ∧ c.toNat = 0x2F) := by
  unfold b64val
  split_ifs <;> simp only [Option.some.injEq, false_iff] <;> omega

/-- Rule R196: the character of a value is the only one that has it. -/
theorem b64val_eq_some_iff (c : Byte) (n : Nat) : b64val c = some n ↔ n < 64 ∧ c = b64char n := by
  constructor
  · intro h
    have hcode := (b64val_eq_some_iff_code c n).mp h
    have hlt : n < 64 := by omega
    refine ⟨hlt, BitVec.eq_of_toNat_eq ?_⟩
    rw [toNat_b64char hlt]
    split_ifs <;> omega
  · rintro ⟨hn, rfl⟩
    exact b64val_b64char hn

/-! ## Byte strings and hex digits -/

/-- Rule R177: the two digits of byte `i`, the high nibble first. -/
theorem hexenc_getElem? {l : List Byte} {i : Nat} (h : i < l.length) :
    (hexenc l)[2 * i]? = some (hexChar (l[i].toNat / 16)) ∧
      (hexenc l)[2 * i + 1]? = some (hexChar (l[i].toNat % 16)) := by
  induction l generalizing i with
  | nil => simp at h
  | cons c rest ih =>
    cases i with
    | zero => exact ⟨congrArg (fun n => some (hexChar n)) (Nat.shiftRight_eq_div_pow c.toNat 4), rfl⟩
    | succ i => exact ih (by simpa using h)

/-- Rule R177: two digits make a byte. -/
theorem hexdec_length (t : List Byte) : (hexdec t).length = t.length / 2 := by
  fun_induction hexdec t with
  | case1 h l rest ih => simp only [List.length_cons, ih]; omega
  | case2 c => simp
  | case3 => rfl

/-- Rule R177: the byte made of two digits. -/
theorem toNat_digitPair (h l : Byte) :
    (BitVec.ofNat 8 (16 * (hexVal h).getD 0 + (hexVal l).getD 0)).toNat =
      16 * (hexVal h).getD 0 + (hexVal l).getD 0 := by
  have hh := hexVal_getD_lt h
  have hl := hexVal_getD_lt l
  rw [BitVec.toNat_ofNat]
  omega

/-- Rule R177: byte `i` is made of the digits at `2i` and `2i + 1`. -/
theorem hexdec_getD {t : List Byte} {i : Nat} (hi : i < t.length / 2) : ((hexdec t).getD i 0).toNat =
    16 * (hexVal (t.getD (2 * i) 0)).getD 0 + (hexVal (t.getD (2 * i + 1) 0)).getD 0 := by
  fun_induction hexdec t generalizing i with
  | case1 h l rest ih =>
    cases i with
    | zero => exact toNat_digitPair h l
    | succ i => exact ih (by simp only [List.length_cons] at hi; omega)
  | case2 => simp at hi
  | case3 => simp at hi

/-! ## Numerals -/

/-- Rule R175: a numeral read from its first digit. -/
theorem hexNumeral_cons (c : Byte) (t : List Byte) :
    hexNumeral (c :: t) = (hexVal c).getD 0 * 16 ^ t.length + hexNumeral t := by
  induction t using List.reverseRecOn with
  | nil => simp [hexNumeral]
  | append_singleton t d ih =>
    have hlast : ∀ u : List Byte, hexNumeral (u ++ [d]) = hexNumeral u * 16 + (hexVal d).getD 0 := fun u => by
      simp [hexNumeral]
    rw [← List.cons_append, hlast, hlast, ih, List.length_append, List.length_singleton]
    ring

/-- Rules R175, R177: the digits of an even text and the bytes they make are the same number. -/
theorem beval_hexdec {t : List Byte} (h : t.length % 2 = 0) : beval (hexdec t) = hexNumeral t := by
  fun_induction hexdec t with
  | case1 h l rest ih =>
    have hrest : rest.length % 2 = 0 := by simp only [List.length_cons] at h; omega
    have hpow : 256 ^ (rest.length / 2) = 16 ^ rest.length := by
      rw [show 256 = 16 ^ 2 from rfl, ← pow_mul, Nat.mul_div_cancel' (Nat.dvd_of_mod_eq_zero hrest)]
    rw [beval_cons, ih hrest, toNat_digitPair, hexdec_length, hpow, hexNumeral_cons, hexNumeral_cons,
      List.length_cons]
    ring
  | case2 => simp at h
  | case3 => rfl

/-- Rules R175, R177: the numeral printed for a byte string is its big-endian value. -/
theorem hexNumeral_hexenc (l : List Byte) : hexNumeral (hexenc l) = beval l := by
  rw [← beval_hexdec (by rw [hexenc_length]; omega), hexdec_hexenc]

/-! ## One half of a text -/

/-- Rule R180: 1 to 16 hex digits. -/
def IsHexHalf (x : List Byte) : Prop :=
  1 ≤ x.length ∧ x.length ≤ 16 ∧ ∀ c ∈ x, (hexVal c).isSome = true

/-- Rule R180: "odd-length hex is left-padded with a zero nibble". -/
def padEven (x : List Byte) : List Byte := if x.length % 2 = 1 then 0x30#8 :: x else x

theorem padEven_length (x : List Byte) : (padEven x).length = 2 * ((x.length + 1) / 2) := by
  unfold padEven
  split
  · rw [List.length_cons]; omega
  · omega

/-- Rule R180: the padding digit is worth nothing. -/
theorem hexNumeral_padEven (x : List Byte) : hexNumeral (padEven x) = hexNumeral x := by
  unfold padEven
  split
  · have hzero : (hexVal 0x30#8).getD 0 = 0 := rfl
    rw [hexNumeral_cons, hzero, zero_mul, zero_add]
  · rfl

/-- Rule R180: the bytes of a half. -/
def halfBytes (x : List Byte) : List Byte := hexdec (padEven x)

theorem halfBytes_length (x : List Byte) : (halfBytes x).length = (x.length + 1) / 2 := by
  rw [halfBytes, hexdec_length, padEven_length]
  omega

theorem beval_halfBytes (x : List Byte) : beval (halfBytes x) = hexNumeral x := by
  rw [halfBytes, beval_hexdec (by rw [padEven_length]; omega), hexNumeral_padEven]

/-- Rule R180, checks 3 to 5 in their order. -/
theorem hexHalf_eq (x : List Byte) : hexHalf x =
    if x.length = 0 then .error .formatError
    else if x.any (fun c => (hexVal c).isNone) then .error .formatError
    else if (padEven x).length > 16 then .error .formatError else .ok (halfBytes x) := rfl

/-- Rule R180, checks 3 to 5: a half is read exactly when it is 1 to 16 digits. -/
theorem hexHalf_of_isHexHalf {x : List Byte} (h : IsHexHalf x) : hexHalf x = .ok (halfBytes x) := by
  obtain ⟨hpos, hlen, hdigits⟩ := h
  have hany : ¬x.any (fun c => (hexVal c).isNone) = true := by
    simpa [Option.isSome_iff_ne_none] using hdigits
  have hfits : ¬(padEven x).length > 16 := by rw [padEven_length]; omega
  rw [hexHalf_eq, if_neg (by omega), if_neg hany, if_neg hfits]

theorem hexHalf_of_not_isHexHalf {x : List Byte} (h : ¬IsHexHalf x) : hexHalf x = .error .formatError := by
  rw [hexHalf_eq]
  split_ifs with hempty hany hlong
  · rfl
  · rfl
  · rfl
  · rw [padEven_length] at hlong
    have hdigits : ∀ c ∈ x, (hexVal c).isSome = true := by
      simpa [Option.isSome_iff_ne_none] using hany
    exact absurd ⟨by omega, by omega, hdigits⟩ h

/-! ## The text after its sign -/

/-- Rule R180: the point is no digit. -/
theorem IsHexHalf.chPoint_not_mem {x : List Byte} (h : IsHexHalf x) : chPoint ∉ x := fun hmem => by
  obtain ⟨-, -, hdigits⟩ := h
  have hdigit := hdigits _ hmem
  rw [hexVal_chPoint] at hdigit
  cases hdigit

/-- Rule R180: an unsigned text and its two halves. -/
def IsUnsignedHexText (H L t : List Byte) : Prop := t = H ++ chPoint :: L ∧ IsHexHalf H ∧ IsHexHalf L

theorem isHexText_iff (negative : Bool) (H L t : List Byte) : IsHexText negative H L t ↔
    ∃ u, t = (if negative then [chMinus] else []) ++ u ∧ IsUnsignedHexText H L u := by
  constructor
  · rintro ⟨rfl, hH₁, hH₂, hL₁, hL₂, hH, hL⟩
    exact ⟨H ++ chPoint :: L, by simp, rfl, ⟨hH₁, hH₂, hH⟩, ⟨hL₁, hL₂, hL⟩⟩
  · rintro ⟨_, rfl, rfl, ⟨hH₁, hH₂, hH⟩, ⟨hL₁, hL₂, hL⟩⟩
    exact ⟨by simp, hH₁, hH₂, hL₁, hL₂, hH, hL⟩

/-- Rule R180, check 2: one point splits a text in two. -/
theorem exists_halves_of_count_eq_one {t : List Byte} (h : t.count chPoint = 1) :
    ∃ H L, t = H ++ chPoint :: L ∧ chPoint ∉ H ∧ chPoint ∉ L := by
  obtain ⟨H, L, rfl⟩ := List.append_of_mem (List.count_pos_iff.mp (h ▸ Nat.one_pos))
  rw [List.count_append, List.count_cons_self] at h
  exact ⟨H, L, rfl, List.count_eq_zero.mp (by omega), List.count_eq_zero.mp (by omega)⟩

/-- Rules R178, R180: the 17-byte form a text stands for, the high bytes right-aligned and the low ones left-aligned. -/
def textForm (negative : Bool) (hb lb : List Byte) : List Byte :=
  (if negative then 0x01#8 else 0x00#8) :: (zeros (8 - hb.length) ++ hb ++ lb ++ zeros (8 - lb.length))

/-- Rule R180, checks 2 to 5: what is read of two halves. -/
theorem parseUnsigned_append {negative : Bool} {H L : List Byte} (hH : chPoint ∉ H) (hL : chPoint ∉ L) :
    parseUnsigned negative (H ++ chPoint :: L) =
      (hexHalf H).bind fun hb => (hexHalf L).map fun lb => unsm17 (textForm negative hb lb) := by
  have hcount : (H ++ chPoint :: L).count chPoint = 1 := by
    rw [List.count_append, List.count_cons_self, List.count_eq_zero.mpr hH, List.count_eq_zero.mpr hL]
  have hbefore : ∀ c ∈ H, (c != chPoint) = true := fun c hc => bne_iff_ne.mpr (ne_of_mem_of_not_mem hc hH)
  have htake : (H ++ chPoint :: L).takeWhile (· != chPoint) = H := by
    rw [List.takeWhile_append_of_pos hbefore]; simp
  have hdrop : (H ++ chPoint :: L).dropWhile (· != chPoint) = chPoint :: L := by
    rw [List.dropWhile_append_of_pos hbefore]; simp
  rw [parseUnsigned, if_neg (not_not.mpr hcount), htake, hdrop, List.drop_one, List.tail_cons]
  cases hexHalf H <;> cases hexHalf L <;> rfl

theorem parseUnsigned_of_halves (negative : Bool) {H L t : List Byte} (h : IsUnsignedHexText H L t) :
    parseUnsigned negative t = .ok (unsm17 (textForm negative (halfBytes H) (halfBytes L))) := by
  obtain ⟨rfl, hH, hL⟩ := h
  rw [parseUnsigned_append hH.chPoint_not_mem hL.chPoint_not_mem, hexHalf_of_isHexHalf hH, hexHalf_of_isHexHalf hL]
  rfl

/-- Rules R180, R215: with another count of points, or a half that is not 1 to 16 digits, there is no value. -/
theorem parseUnsigned_of_no_halves (negative : Bool) {t : List Byte} (h : ¬∃ H L, IsUnsignedHexText H L t) :
    parseUnsigned negative t = .error .formatError := by
  by_cases hcount : t.count chPoint = 1
  · obtain ⟨H, L, rfl, hH, hL⟩ := exists_halves_of_count_eq_one hcount
    rw [parseUnsigned_append hH hL]
    by_cases hhigh : IsHexHalf H
    · have hlow : ¬IsHexHalf L := fun hlow => h ⟨H, L, rfl, hhigh, hlow⟩
      rw [hexHalf_of_isHexHalf hhigh, hexHalf_of_not_isHexHalf hlow]
      rfl
    · rw [hexHalf_of_not_isHexHalf hhigh]
      rfl
  · rw [parseUnsigned, if_pos hcount]

/-! ## The whole text -/

/-- Rule R214: a blank or empty text. -/
theorem parseHex_of_blank {t : List Byte} (h : ∀ c ∈ t, isSpace c = true) : parseHex t = .error .emptyInput := by
  rw [parseHex.eq_def, if_pos (List.all_eq_true.mpr h)]

/-- Rule R180, check 1: a minus is taken off. -/
theorem parseHex_chMinus (t : List Byte) : parseHex (chMinus :: t) = parseUnsigned true t := by
  have hvisible : ¬(chMinus :: t).all isSpace = true := by simp [show isSpace chMinus = false from rfl]
  rw [parseHex.eq_def, if_neg hvisible]
  exact if_pos rfl

theorem parseHex_of_head_ne {c : Byte} {t : List Byte} (hc : c ≠ chMinus) 
    (hvisible : ∃ d ∈ c :: t, isSpace d = false) : parseHex (c :: t) = parseUnsigned false (c :: t) := by
  have hall : ¬(c :: t).all isSpace = true := Bool.not_eq_true _ ▸ List.all_eq_false.mpr (by simpa using hvisible)
  rw [parseHex.eq_def, if_neg hall]
  exact if_neg hc

/-- Rule R180: a text of the accepted form is read by its halves. -/
theorem parseHex_of_isHexText {negative : Bool} {H L t : List Byte} (h : IsHexText negative H L t) :
    parseHex t = .ok (unsm17 (textForm negative (halfBytes H) (halfBytes L))) := by
  obtain ⟨u, rfl, hu⟩ := (isHexText_iff negative H L t).mp h
  rw [← parseUnsigned_of_halves negative hu]
  cases negative with
  | true => exact parseHex_chMinus u
  | false =>
    obtain ⟨rfl, ⟨hpos, -, hdigits⟩, -⟩ := hu
    obtain ⟨c, H, rfl⟩ := List.exists_cons_of_length_pos hpos
    have hc : c ≠ chMinus := by
      rintro rfl
      exact absurd (hdigits chMinus List.mem_cons_self) (by rw [hexVal_chMinus]; simp)
    exact parseHex_of_head_ne hc ⟨chPoint, by simp, rfl⟩

/-- Rule R215: a text that is neither blank nor of the accepted form. -/
theorem parseHex_of_not_isHexText {t : List Byte} (hvisible : ∃ c ∈ t, isSpace c = false)
    (h : ¬∃ negative H L, IsHexText negative H L t) : parseHex t = .error .formatError := by
  cases t with
  | nil => simp at hvisible
  | cons c rest =>
    by_cases hc : c = chMinus
    · subst hc
      rw [parseHex_chMinus]
      refine parseUnsigned_of_no_halves true fun ⟨H, L, hu⟩ => h ⟨true, H, L, ?_⟩
      exact (isHexText_iff _ _ _ _).mpr ⟨rest, rfl, hu⟩
    · rw [parseHex_of_head_ne hc hvisible]
      refine parseUnsigned_of_no_halves false fun ⟨H, L, hu⟩ => h ⟨false, H, L, ?_⟩
      exact (isHexText_iff _ _ _ _).mpr ⟨c :: rest, rfl, hu⟩

/-! ## The value of a text -/

/-- Rules R175, R180: the integer a text stands for, before it is wrapped. -/
def textValue (negative : Bool) (H L : List Byte) : Int :=
  (if negative then -1 else 1) *
    ((hexNumeral H * 2 ^ 64 + hexNumeral L * 256 ^ (8 - (L.length + 1) / 2) : Nat) : Int)

theorem unsm17_textForm (negative : Bool) {H L : List Byte} (hH : IsHexHalf H) (hL : IsHexHalf L) :
    unsm17 (textForm negative (halfBytes H) (halfBytes L)) = wrap 128 (textValue negative H L) := by
  obtain ⟨-, hH, -⟩ := hH
  obtain ⟨-, hL, -⟩ := hL
  have hhigh : (halfBytes H).length ≤ 8 := by rw [halfBytes_length]; omega
  have hlow : (halfBytes L).length ≤ 8 := by rw [halfBytes_length]; omega
  have hlen : (textForm negative (halfBytes H) (halfBytes L)).length = 17 := by
    simp only [textForm, List.length_cons, List.length_append, zeros_length]; omega
  have hmag : beval ((textForm negative (halfBytes H) (halfBytes L)).drop 1) =
      hexNumeral H * 2 ^ 64 + hexNumeral L * 256 ^ (8 - (L.length + 1) / 2) := by
    have hshift : 256 ^ (halfBytes L).length * 256 ^ (8 - (halfBytes L).length) = 2 ^ 64 := by
      rw [← pow_add, Nat.add_sub_cancel' hlow]; norm_num
    rw [textForm, List.drop_one, List.tail_cons, beval_append, beval_append, beval_append, beval_zeros, beval_zeros,
      zeros_length, beval_halfBytes, beval_halfBytes, zero_mul, zero_add, add_zero, add_mul, mul_assoc, hshift,
      halfBytes_length]
  rw [unsm17_eq hlen, signedMagnitude, hmag, textValue]
  cases negative <;> simp [textForm]

/-! ## `FROMHEX` -/

/-- Rule R180: `FROMHEX` writes the value of an accepted text. -/
theorem exec_fromhex_of_isHexText {s : State} {negative : Bool} {H L : List Byte}
    (h : IsHexText negative H L s.inputText) :
    exec .fromhex s = .next { s with r := wrap 128 (textValue negative H L), err := 0, busy := 0 } := by
  obtain ⟨_, -, -, hH, hL⟩ := (isHexText_iff _ _ _ _).mp h
  rw [exec, execFromhex, parseHex_of_isHexText h, unsm17_textForm negative hH hL]
  rfl

theorem exec_fromhex_of_blank {s : State} (h : ∀ c ∈ s.inputText, isSpace c = true) :
    exec .fromhex s = .next { s with err := 3, busy := 0 } := by
  rw [exec, execFromhex, parseHex_of_blank h]
  rfl

theorem exec_fromhex_of_not_isHexText {s : State} (hvisible : ∃ c ∈ s.inputText, isSpace c = false)
    (h : ¬∃ negative H L, IsHexText negative H L s.inputText) :
    exec .fromhex s = .next { s with err := 4, busy := 0 } := by
  rw [exec, execFromhex, parseHex_of_not_isHexText hvisible h]
  rfl

/-! ## `TOHEXP` and `TOHEX` -/

theorem legalPrecision_iff (hs le : Nat) :
    legalPrecision hs le = true ↔ 1 ≤ hs ∧ hs ≤ 8 ∧ 10 ≤ le ∧ le ≤ 17 := decide_eq_true_iff

/-- Rule R178: `TOHEXP` at a legal pair. -/
theorem exec_tohexp_of_legal {s : State} (h : legalPrecision s.hs.toNat s.le.toNat = true) :
    exec .tohexp s = .next (s.writeText (hexText (sm17 s.a) s.hs.toNat s.le.toNat)).succeed := by
  rw [exec, execTohexp, preciseText, if_pos h]
  rfl

/-- Rule R213: `TOHEXP` at any other pair. -/
theorem exec_tohexp_of_not_legal {s : State} (h : ¬legalPrecision s.hs.toNat s.le.toNat = true) :
    exec .tohexp s = .next { s with err := 2, busy := 0 } := by
  rw [exec, execTohexp, preciseText, if_neg h]
  rfl

/-- Rule R179: `TOHEX` writes the text at the automatic pair. -/
theorem exec_tohex (s : State) : exec .tohex s =
    .next (s.writeText (hexText (sm17 s.a) (autoHigh (sm17 s.a)) (autoLow (sm17 s.a)))).succeed := rfl

/-- Rule R11: a slice cut the other way round. -/
theorem slice_eq_take_drop (l : List Byte) (i j : Nat) : slice l i j = (l.drop i).take (j - i) := List.drop_take ..

theorem sm17_sign_eq_iff_toInt (v : Word) : (sm17 v).getD 0 0 = 0x01#8 ↔ v.toInt < 0 :=
  (sm17_sign_eq v).trans decide_eq_true_iff

/-- Rule R178: the text of a value at a pair. -/
theorem hexText_sm17 (v : Word) (hs le : Nat) : hexText (sm17 v) hs le =
    (if v.toInt < 0 then [0x2D#8] else []) ++ hexenc (((sm17 v).drop hs).take (9 - hs)) ++ [0x2E#8] ++
      hexenc (((sm17 v).drop 9).take (le - 9)) := by
  simp only [hexText, sm17_sign_eq_iff_toInt, slice_eq_take_drop, chMinus, chPoint]

/-- Rules R31, R178: the text and its length fit their registers. -/
theorem toNat_hexText_length {s : List Byte} {hs le : Nat} (hl : s.length = 17) (h : legalPrecision hs le = true) :
    (BitVec.ofNat 6 (hexText s hs le).length).toNat = (hexText s hs le).length := by
  obtain ⟨-, -, hmax⟩ := hexText_length hl h
  rw [BitVec.toNat_ofNat]
  omega

/-! ## The automatic pair -/

/-- Rule R181: the integer bytes before the automatic start are zero, and it stands on one that is not, or on 8. -/
theorem autoHigh_spec (l : List Byte) : (∀ i, 1 ≤ i → i < autoHigh l → l.getD i 0 = 0) ∧
    (autoHigh l < 8 → l.getD (autoHigh l) 0 ≠ 0) := by
  have hrange : [1, 2, 3, 4, 5, 6, 7, 8] = List.range' 1 8 := rfl
  unfold autoHigh
  rw [hrange]
  cases hfind : (List.range' 1 8).find? (fun i => l.getD i 0 != 0) with
  | none =>
    rw [List.find?_range'_eq_none] at hfind
    refine ⟨fun i h1 h2 => ?_, fun h => absurd h (by simp)⟩
    simpa using hfind i h1 (by simp at h2; omega)
  | some k =>
    obtain ⟨hk, -, hbefore⟩ := List.find?_range'_eq_some.mp hfind
    exact ⟨fun i h1 h2 => by simpa using hbefore i h1 h2, fun _ => by simpa using hk⟩

/-- Rule R181: the fractional bytes from the automatic end on are zero, and the last before it is not, unless it is
the first. -/
theorem autoLow_spec (l : List Byte) : (∀ j, autoLow l ≤ j → j ≤ 16 → l.getD j 0 = 0) ∧
    (10 < autoLow l → l.getD (autoLow l - 1) 0 ≠ 0) := by
  have hrange : [16, 15, 14, 13, 12, 11, 10, 9] = (List.range 8).map (16 - ·) := rfl
  unfold autoLow
  rw [hrange, List.find?_map]
  cases hfind : (List.range 8).find? ((fun j => l.getD j 0 != 0) ∘ (16 - ·)) with
  | none =>
    rw [List.find?_range_eq_none] at hfind
    refine ⟨fun j h1 h2 => ?_, fun h => absurd h (by simp)⟩
    have hj : 16 - (16 - j) = j := by omega
    simpa [hj] using hfind (16 - j) (by simp at h1; omega)
  | some k =>
    obtain ⟨hk, hmem, hbefore⟩ := List.find?_range_eq_some.mp hfind
    refine ⟨fun j h1 h2 => ?_, fun _ => by simpa using hk⟩
    have hj : 16 - (16 - j) = j := by omega
    simpa [hj] using hbefore (16 - j) (by simp at h1 hmem; omega)

/-- Rule R181: zero keeps one byte on each side. -/
theorem hexText_zero : hexText (sm17 ZERO) (autoHigh (sm17 ZERO)) (autoLow (sm17 ZERO)) =
    [0x30#8, 0x30#8, 0x2E#8, 0x30#8, 0x30#8] := by
  decide +kernel

/-! ## The bytes of a window -/

/-- Rule R11: the bytes `i` to `j - 1` of a big-endian string are those of the number without the bytes after them. -/
theorem slice_be {i j k : Nat} (hij : i ≤ j) (hjk : j ≤ k) (n : Nat) :
    slice (be k n) i j = be (j - i) (n >>> (8 * (k - j))) := by
  obtain ⟨d, rfl⟩ := Nat.exists_eq_add_of_le hij
  obtain ⟨e, rfl⟩ := Nat.exists_eq_add_of_le hjk
  have hi : (be i ((n >>> (8 * e)) >>> (8 * d))).length = i := be_length ..
  have hd : (be (i + d) (n >>> (8 * e))).length = i + d := be_length ..
  rw [slice, be_add (i + d) e, List.take_left' hd, be_add i d, List.drop_left' hi]
  simp only [Nat.add_sub_cancel_left]

/-- Rule R165: the number in the bytes `i` to `j - 1` of a value's form. -/
theorem beval_slice_sm17 {i j : Nat} (hi : 1 ≤ i) (hij : i ≤ j) (hj : j ≤ 17) (v : Word) :
    beval (slice (sm17 v) i j) = mag v / 256 ^ (17 - j) % 256 ^ (j - i) := by
  obtain ⟨i, rfl⟩ := Nat.exists_eq_add_of_le' hi
  obtain ⟨j, rfl⟩ := Nat.exists_eq_add_of_le' (hi.trans hij)
  have hcons : slice (sm17 v) (i + 1) (j + 1) = slice (be 16 (mag v)) i j := by simp [sm17, slice]
  have hbelow : 16 - j = 17 - (j + 1) := by omega
  have hwidth : j - i = j + 1 - (i + 1) := by omega
  rw [hcons, slice_be (by omega) (by omega), beval_be, Nat.shiftRight_eq_div_pow, pow_mul, hbelow, hwidth]
  rfl

/-- Rule R11: a string stands for 0 exactly when every byte of it is 0. -/
theorem beval_eq_zero_iff (l : List Byte) : beval l = 0 ↔ ∀ c ∈ l, c = 0 := by
  induction l with
  | nil => simp [beval]
  | cons c rest ih =>
    have hc : c.toNat = 0 ↔ c = 0 := BitVec.toNat_inj (y := 0)
    simp [beval_cons, ih, hc]

/-- Rule R11: the number in a slice is 0 exactly when every byte in its bounds is. -/
theorem beval_slice_eq_zero_iff (l : List Byte) (i j : Nat) :
    beval (slice l i j) = 0 ↔ ∀ k, i ≤ k → k < j → l.getD k 0 = 0 := by
  have hget : ∀ k, k < j → (l.take j).getD k 0 = l.getD k 0 := fun k hk => by
    simp [List.getElem?_take_of_lt hk]
  rw [beval_eq_zero_iff]
  constructor
  · intro hall k hik hkj
    rw [← hget k hkj]
    by_cases hk : k < (l.take j).length
    · rw [List.getD_eq_getElem _ _ hk]
      exact hall _ (List.mem_drop_iff_getElem.mpr ⟨k - i, by omega, by simp [hik]⟩)
    · exact List.getD_eq_default _ _ (by omega)
  · intro hall c hc
    obtain ⟨k, hk, rfl⟩ := List.mem_drop_iff_getElem.mp hc
    have hkj : i + k < j := by simp at hk; omega
    rw [← List.getD_eq_getElem _ 0, hget _ hkj]
    exact hall _ (by omega) hkj

/-- Rule R183: the magnitude with the bytes outside the window cleared. -/
def windowMagnitude (v : Word) (hs le : Nat) : Nat :=
  hiPart v % 256 ^ (9 - hs) * 2 ^ 64 + loPart v / 256 ^ (17 - le) * 256 ^ (17 - le)

/-- Rule R180: the digits of 1 to 8 bytes make a half. -/
theorem isHexHalf_hexenc {l : List Byte} (h1 : 1 ≤ l.length) (h2 : l.length ≤ 8) : IsHexHalf (hexenc l) :=
  ⟨by rw [hexenc_length]; omega, by rw [hexenc_length]; omega, hexenc_isDigit l⟩

section Window

variable {hs le : Nat} (hlegal : legalPrecision hs le = true) (v : Word)
include hlegal

/-- Rule R178: the 64 fractional bits are the bytes in the window and those after it. -/
theorem two_pow_64_eq_split : 2 ^ 64 = 256 ^ (17 - le) * 256 ^ (le - 9) := by
  obtain ⟨-, -, h3, h4⟩ := (legalPrecision_iff hs le).mp hlegal
  rw [← pow_add, show 17 - le + (le - 9) = 8 by omega]
  rfl

/-- Rules R178, R183: the integer bytes in the window. -/
theorem beval_slice_high : beval (slice (sm17 v) hs 9) = hiPart v % 256 ^ (9 - hs) := by
  obtain ⟨h1, h2, -, -⟩ := (legalPrecision_iff hs le).mp hlegal
  rw [beval_slice_sm17 h1 (by omega) (by omega), hiPart, Nat.shiftRight_eq_div_pow]
  rfl

/-- Rules R178, R183: the fractional bytes in the window. -/
theorem beval_slice_low : beval (slice (sm17 v) 9 le) = loPart v / 256 ^ (17 - le) := by
  obtain ⟨-, -, h3, h4⟩ := (legalPrecision_iff hs le).mp hlegal
  rw [beval_slice_sm17 (by omega) (by omega) h4, loPart, two_pow_64_eq_split hlegal, Nat.mod_mul_right_div_self]

/-- Rule R183: the magnitude is its window and the bytes on either side of it. -/
theorem mag_eq_windowMagnitude_add : mag v = windowMagnitude v hs le +
    (beval (slice (sm17 v) 1 hs) * 256 ^ (17 - hs) + beval (slice (sm17 v) le 17)) := by
  obtain ⟨h1, h2, h3, h4⟩ := (legalPrecision_iff hs le).mp hlegal
  have hpowHigh : 256 ^ (17 - hs) = 2 ^ 64 * 256 ^ (9 - hs) := by
    rw [show 17 - hs = 8 + (9 - hs) by omega, pow_add]; rfl
  have hleft : beval (slice (sm17 v) 1 hs) = hiPart v / 256 ^ (9 - hs) := by
    have hfit : mag v / 256 ^ (17 - hs) < 256 ^ (hs - 1) := by
      rw [Nat.div_lt_iff_lt_mul (by positivity), ← pow_add, show hs - 1 + (17 - hs) = 16 by omega]
      exact mag_lt v
    rw [beval_slice_sm17 le_rfl h1 (by omega), Nat.mod_eq_of_lt hfit, hpowHigh, ← Nat.div_div_eq_div_mul, hiPart,
      Nat.shiftRight_eq_div_pow]
  have hright : beval (slice (sm17 v) le 17) = loPart v % 256 ^ (17 - le) := by
    rw [beval_slice_sm17 (by omega) h4 le_rfl, Nat.sub_self, pow_zero, Nat.div_one, loPart, two_pow_64_eq_split hlegal,
      Nat.mod_mul_right_mod]
  rw [mag_eq_halves, hleft, hright, windowMagnitude, hpowHigh]
  have hhigh := Nat.div_add_mod (hiPart v) (256 ^ (9 - hs))
  have hlow := Nat.div_add_mod (loPart v) (256 ^ (17 - le))
  linarith

/-- Rule R183: nothing is cleared exactly when every byte outside the window is 0. -/
theorem windowMagnitude_eq_mag_iff : windowMagnitude v hs le = mag v ↔
    (∀ i, 1 ≤ i → i < hs → (sm17 v).getD i 0 = 0) ∧ (∀ j, le ≤ j → j < 17 → (sm17 v).getD j 0 = 0) := by
  rw [← beval_slice_eq_zero_iff, ← beval_slice_eq_zero_iff, mag_eq_windowMagnitude_add hlegal v]
  simp

/-- Rules R178, R180: a printed text is of the accepted form. -/
theorem isHexText_hexText : IsHexText (isNegative v) (hexenc (slice (sm17 v) hs 9)) (hexenc (slice (sm17 v) 9 le))
    (hexText (sm17 v) hs le) := by
  obtain ⟨h1, h2, h3, h4⟩ := (legalPrecision_iff hs le).mp hlegal
  have hhigh : (slice (sm17 v) hs 9).length = 9 - hs := slice_length (by simp)
  have hlow : (slice (sm17 v) 9 le).length = le - 9 := slice_length (by simpa using h4)
  refine (isHexText_iff _ _ _ _).mpr ⟨_, ?_, rfl, isHexHalf_hexenc (by omega) (by omega),
    isHexHalf_hexenc (by omega) (by omega)⟩
  simp only [hexText, sm17_sign_eq, List.append_assoc, List.singleton_append]

/-- Rule R183: the value of a printed text. -/
theorem textValue_hexText : textValue (isNegative v) (hexenc (slice (sm17 v) hs 9)) (hexenc (slice (sm17 v) 9 le)) =
    (if v.toInt < 0 then -1 else 1) * (windowMagnitude v hs le : Int) := by
  obtain ⟨-, -, h3, h4⟩ := (legalPrecision_iff hs le).mp hlegal
  have hlow : (slice (sm17 v) 9 le).length = le - 9 := slice_length (by simpa using h4)
  have hbelow : 8 - (2 * (le - 9) + 1) / 2 = 17 - le := by omega
  rw [textValue, hexNumeral_hexenc, hexNumeral_hexenc, beval_slice_high hlegal, beval_slice_low hlegal, hexenc_length,
    hlow, hbelow, windowMagnitude, isNegative]
  simp only [decide_eq_true_eq]

end Window

/-- Rules R9, R14: a signed number no further from 0 than a raw value wraps to it only if it is its magnitude. -/
theorem wrap_sign_mul_eq_iff {v : Word} {m : Nat} (h : m ≤ mag v) :
    wrap 128 ((if v.toInt < 0 then -1 else 1) * (m : Int)) = v ↔ m = mag v := by
  have hmin := BitVec.le_toInt v
  have hmax := BitVec.toInt_lt (x := v)
  rw [mag, raw, sint] at h ⊢
  rw [← BitVec.toInt_inj]
  split_ifs with hneg <;> rw [wrap_toInt_of_range] <;> omega

/-! ## `MVT` -/

/-- Rule R75: the output text copied to the input text, as the host reads and writes it. -/
def State.copyText (s : State) : State :=
  { s with it := buffer 127 s.outputText, itlen := s.otlen.setWidth 7, seen := s.seen ++ [.ot s.ot, .otlen s.otlen] }

@[simp] theorem State.copyText_a (s : State) : s.copyText.a = s.a := rfl
@[simp] theorem State.copyText_it (s : State) : s.copyText.it = buffer 127 s.outputText := rfl
@[simp] theorem State.copyText_itlen (s : State) : s.copyText.itlen = s.otlen.setWidth 7 := rfl

/-- Rule R75: `MVT` copies the output text. -/
theorem runScript_mvt {rest : List ScriptLine} {s : State} (hidle : s.busy = 0) :
    runScript (.mvt :: rest) s = runScript rest s.copyText := by
  apply runScript_cons rfl
  simp [hostActs, hostAct, hidle, State.applyWrite, State.read, State.copyText]

/-- Rules R31, R75: the text a formatter wrote is what the parser sees after the copy. -/
theorem copyText_writeText_inputText {t : List Byte} (h : t.length ≤ 34) (s : State) :
    ((s.writeText t).succeed.copyText).inputText = t := by
  have hlen : (BitVec.ofNat 6 t.length).toNat = t.length := by rw [BitVec.toNat_ofNat]; omega
  have hout : (s.writeText t).succeed.outputText = t := by
    rw [State.outputText, State.succeed_otlen, State.succeed_ot, State.writeText_otlen, State.writeText_ot, uint, hlen,
      buffer_take h]
  have hin : ((BitVec.ofNat 6 t.length).setWidth 7).toNat = t.length := by
    rw [BitVec.toNat_setWidth, hlen]; omega
  rw [State.inputText, State.copyText_it, State.copyText_itlen, hout, State.succeed_otlen, State.writeText_otlen, uint,
    hin, buffer_take (by omega)]

/-- Rules R182, R183: a text printed at a legal pair, copied and read, gives the window of the value it was printed
from. -/
theorem runScript_mvt_fromhex {hs le : Nat} (hlegal : legalPrecision hs le = true) (v : Word) (s : State) :
    ∃ t, runScript [.mvt, .cmd .fromhex] (s.writeText (hexText (sm17 v) hs le)).succeed = some (.next t) ∧
      t.a = s.a ∧ t.err = 0 ∧
      t.r = wrap 128 ((if v.toInt < 0 then -1 else 1) * (windowMagnitude v hs le : Int)) := by
  obtain ⟨-, -, hmax⟩ := hexText_length (sm17_length v) hlegal
  have htext : ((s.writeText (hexText (sm17 v) hs le)).succeed.copyText.issue (encode .fromhex)).inputText =
      hexText (sm17 v) hs le := copyText_writeText_inputText hmax s
  have hexec := exec_fromhex_of_isHexText (htext ▸ isHexText_hexText hlegal v)
  rw [runScript_mvt rfl, ← textValue_hexText hlegal v]
  exact ⟨_, runScript_cmd rfl hexec, by simp, rfl, rfl⟩

end Sys2Proof.Machine

namespace Sys2Proof.Proofs.HexFamily

open Sys2Proof.Machine Sys2Proof.Safety

/-- Settles O46: each table from the side of its characters, each helper byte by byte. -/
theorem textAlphabets : Obligations.TextAlphabets := by
  unfold Obligations.TextAlphabets
  exact ⟨⟨rfl, rfl, rfl⟩, by decide, by decide, hexVal_eq_some_iff, isSpace_iff,
    fun l => ⟨hexenc_length l, hexdec_hexenc l, fun i => hexenc_getElem? i.isLt⟩,
    fun t _ _ => ⟨hexdec_length t, fun i hi => hexdec_getD hi⟩, b64val_eq_some_iff,
    fun n => toNat_b64char n.isLt⟩

/-- Settles O47: the pair is checked first; at a legal one the text and its length fit their registers. -/
theorem tohexpPrintsTheWindow : Obligations.TohexpPrintsTheWindow := by
  unfold Obligations.TohexpPrintsTheWindow
  refine ⟨rfl, fun s h1 h2 h3 h4 => ?_, fun s h => exec_tohexp_of_not_legal (mt (legalPrecision_iff _ _).mp h)⟩
  have hlegal := (legalPrecision_iff _ _).mpr ⟨h1, h2, h3, h4⟩
  obtain ⟨hlen, -, hmax⟩ := hexText_length (sm17_length s.a) hlegal
  refine ⟨_, _, exec_tohexp_of_legal hlegal, ?length, ?text⟩ <;>
    rw [State.writeText_otlen, toNat_hexText_length (sm17_length s.a) hlegal]
  case length => simp only [hlen, sm17_sign_eq_iff_toInt]
  case text =>
    rw [State.writeText_ot, ← hexText_sm17]
    exact buffer_toList hmax

/-- Settles O48: both commands write the one text at the automatic pair, which is legal. -/
theorem tohexTrimsZeroBytes : Obligations.TohexTrimsZeroBytes := by
  unfold Obligations.TohexTrimsZeroBytes
  refine ⟨rfl, fun s => ⟨autoHigh (sm17 s.a), autoLow (sm17 s.a), _, _, exec_tohex s, ?_⟩⟩
  have hlegal := autoPrecision_legal (sm17 s.a)
  obtain ⟨h1, h2, h3, h4⟩ := (legalPrecision_iff _ _).mp hlegal
  obtain ⟨hbefore, hfirst⟩ := autoHigh_spec (sm17 s.a)
  obtain ⟨hafter, hlast⟩ := autoLow_spec (sm17 s.a)
  refine ⟨?same, h1, h2, h3, h4, hbefore, hfirst, hafter, hlast, ?zero⟩
  case same =>
    have hhs : (BitVec.ofNat 8 (autoHigh (sm17 s.a))).toNat = autoHigh (sm17 s.a) := by
      rw [BitVec.toNat_ofNat]; omega
    have hle : (BitVec.ofNat 8 (autoLow (sm17 s.a))).toNat = autoLow (sm17 s.a) := by
      rw [BitVec.toNat_ofNat]; omega
    rw [exec_tohexp_of_legal (by simpa only [hhs, hle] using hlegal)]
    simp only [hhs, hle]
    rfl
  case zero =>
    intro h
    rw [State.writeText_ot, State.writeText_otlen, h, hexText_zero]
    decide

/-- Settles O49: a text of the accepted form is read by its halves, and the checks name every other text's error. -/
theorem fromhexReadsTheNumeralOrRaises : Obligations.FromhexReadsTheNumeralOrRaises := by
  unfold Obligations.FromhexReadsTheNumeralOrRaises
  exact ⟨rfl, fun s negative H L h => ⟨_, exec_fromhex_of_isHexText h, wrap_toNat 128 _⟩,
    fun s => exec_fromhex_of_blank, fun s => exec_fromhex_of_not_isHexText⟩

/-- Settles O51: what is read back is the window of the magnitude with its sign, and `A` when nothing is cut off. -/
theorem hexWindowRoundTrip : Obligations.HexWindowRoundTrip := by
  unfold Obligations.HexWindowRoundTrip
  intro s hidle h1 h2 h3 h4
  have hlegal := (legalPrecision_iff _ _).mpr ⟨h1, h2, h3, h4⟩
  obtain ⟨t, hrun, -, herr, hr⟩ := runScript_mvt_fromhex hlegal s.a (s.issue (encode .tohexp))
  refine ⟨t, (runScript_cmd hidle (exec_tohexp_of_legal hlegal)).trans hrun, herr, ?_, ?_⟩
  · rw [hr, wrap_toNat, windowMagnitude]
  · have hwindow : windowMagnitude s.a s.hs.toNat s.le.toNat ≤ mag s.a :=
      (Nat.le_add_right _ _).trans_eq (mag_eq_windowMagnitude_add hlegal s.a).symm
    rw [hr, wrap_sign_mul_eq_iff hwindow, windowMagnitude_eq_mag_iff hlegal]
    simp only [Nat.lt_succ_iff]

end Sys2Proof.Proofs.HexFamily
end

section
/-! The base64 family: the groups of a number and the number of a text, the texts that encode 17 bytes, and what
`TOB64` writes and `FROMB64` reads or rejects (rules R195 to R201, R216). -/

namespace Sys2Proof.Machine

open Sys2Proof.Safety

/-! ## Groups of 6 bits -/

/-- Rule R197: group `i` of `k` has `k - 1 - i` groups below it. -/
theorem b64groups_getD {k i : Nat} (h : i < k) (n : Nat) :
    (b64groups k n).getD i 0 = b64char (n / 64 ^ (k - 1 - i) % 64) := by
  induction k generalizing i with
  | zero => omega
  | succ k ih =>
    cases i with
    | zero =>
      rw [b64groups, List.getD_cons_zero, Nat.shiftRight_eq_div_pow, pow_mul]
      rfl
    | succ i =>
      have hrest : k + 1 - 1 - (i + 1) = k - 1 - i := by omega
      rw [b64groups, List.getD_cons_succ, ih (by omega), hrest]

/-- Rule R197: the last group is the low 6 bits, the others those of the number above them. -/
theorem b64groups_succ (k n : Nat) : b64groups (k + 1) n = b64groups k (n / 64) ++ [b64char (n % 64)] := by
  induction k with
  | zero => rfl
  | succ k ih =>
    have hshift : n >>> (6 * (k + 1)) = (n / 64) >>> (6 * k) := by
      rw [mul_add, add_comm, Nat.shiftRight_add, Nat.shiftRight_eq_div_pow n]
    rw [b64groups, ih, b64groups, hshift, List.cons_append]

theorem b64val_getD_lt (c : Byte) : (b64val c).getD 0 < 64 := by
  cases h : b64val c with
  | none => simp
  | some n => exact ((b64val_eq_some_iff c n).mp h).1

/-- Rule R196: a character of the alphabet is the one of its value. -/
theorem b64char_b64val {c : Byte} (h : (b64val c).isSome = true) : b64char ((b64val c).getD 0) = c := by
  obtain ⟨n, hn⟩ := Option.isSome_iff_exists.mp h
  rw [hn, Option.getD_some]
  exact ((b64val_eq_some_iff c n).mp hn).2.symm

theorem isSome_b64val_b64char {k : Nat} (h : k < 64) : (b64val (b64char k)).isSome = true := by
  rw [b64val_b64char h]
  rfl

/-- Rule R196: `A` is the character of 0 alone. -/
theorem b64char_eq_A_iff {k : Nat} (h : k < 64) : b64char k = 0x41#8 ↔ k = 0 := by
  have hA := b64val_eq_some_iff 0x41#8 k
  have hval : b64val 0x41#8 = some 0 := rfl
  rw [hval, Option.some_inj] at hA
  tauto

/-- Rule R197: every group is written with a character of the alphabet. -/
theorem b64groups_isDigit (k n : Nat) : ∀ c ∈ b64groups k n, (b64val c).isSome = true := by
  induction k with
  | zero => simp [b64groups]
  | succ k ih =>
    rw [b64groups, List.forall_mem_cons]
    exact ⟨isSome_b64val_b64char (Nat.mod_lt _ (by norm_num)), ih⟩

/-! ## The number of a text -/

theorem b64number_append_singleton (t : List Byte) (c : Byte) :
    b64number (t ++ [c]) = b64number t * 64 + (b64val c).getD 0 := by
  simp [b64number]

theorem b64number_lt (t : List Byte) : b64number t < 64 ^ t.length := by
  induction t using List.reverseRecOn with
  | nil => simp [b64number]
  | append_singleton t c ih =>
    have hc := b64val_getD_lt c
    rw [b64number_append_singleton, List.length_append, List.length_singleton, pow_succ]
    omega

/-- Rules R197, R199: the groups of the number of a text are the text. -/
theorem b64groups_b64number {t : List Byte} (h : ∀ c ∈ t, (b64val c).isSome = true) :
    b64groups t.length (b64number t) = t := by
  induction t using List.reverseRecOn with
  | nil => rfl
  | append_singleton t c ih =>
    rw [List.forall_mem_append, List.forall_mem_singleton] at h
    obtain ⟨ht, hc⟩ := h
    have hlt := b64val_getD_lt c
    have hhigh : (b64number t * 64 + (b64val c).getD 0) / 64 = b64number t := by omega
    have hlow : (b64number t * 64 + (b64val c).getD 0) % 64 = (b64val c).getD 0 := by omega
    rw [b64number_append_singleton, List.length_append, List.length_singleton, b64groups_succ, hhigh, hlow, ih ht,
      b64char_b64val hc]

/-- Rules R199, R200: the two padding bits are those of the last character before `=`. -/
theorem b64number_take_mod_four {t : List Byte} (h : t.length = 24) :
    b64number (t.take 23) % 4 = (b64val (t.getD 22 0)).getD 0 % 4 := by
  have hlast : t.take 23 = t.take 22 ++ [t.getD 22 0] := by
    rw [List.getD_eq_getElem _ _ (by omega), List.take_append_getElem (by omega)]
  rw [hlast, b64number_append_singleton]
  omega

/-! ## The encodings of 17 bytes -/

/-- Rule R195: 17 bytes and two zero bits fill the 23 groups. -/
theorem beval_mul_four_lt {l : List Byte} (h : l.length = 17) : beval l * 4 < 64 ^ 23 := by
  have hl := beval_lt l
  rw [h] at hl
  omega

theorem b64enc17_take (l : List Byte) : (b64enc17 l).take 23 = b64groups 23 (beval l * 4) :=
  List.take_left' (b64groups_length _ _)

theorem b64enc17_getD {k : Nat} (h : k < 23) (l : List Byte) :
    (b64enc17 l).getD k 0 = b64char (beval l * 4 / 64 ^ (22 - k) % 64) := by
  rw [b64enc17, List.getD_append _ _ _ _ (by simpa using h), b64groups_getD h]

theorem b64enc17_getD_pad (l : List Byte) : (b64enc17 l).getD 23 0 = chPad := by
  rw [b64enc17, List.getD_append_right _ _ _ _ (by simp), b64groups_length]
  rfl

/-- Rules R197, R199: the number of an encoding is that of its bytes and the two zero bits. -/
theorem b64number_b64enc17 {l : List Byte} (h : l.length = 17) : b64number ((b64enc17 l).take 23) = beval l * 4 := by
  rw [b64enc17_take, b64number_b64groups, Nat.mod_eq_of_lt (beval_mul_four_lt h)]

/-- Rule R200: two strings of 17 bytes with one encoding are the same. -/
theorem b64enc17_inj {l l' : List Byte} (h : l.length = 17) (h' : l'.length = 17) (heq : b64enc17 l' = b64enc17 l) :
    l' = l := by
  have hval : beval l' * 4 = beval l * 4 := by rw [← b64number_b64enc17 h', heq, b64number_b64enc17 h]
  rw [← be_beval l', ← be_beval l, h, h', Nat.eq_of_mul_eq_mul_right (by norm_num) hval]

/-- Rule R199: a text that passes the first four checks encodes 17 bytes. -/
theorem exists_b64enc17_eq {t : List Byte} (hlen : t.length = 24) (hpad : t.getD 23 0 = chPad)
    (hdigits : ∀ c ∈ t.take 23, (b64val c).isSome = true) (hlow : b64number (t.take 23) % 4 = 0) :
    ∃ l : List Byte, l.length = 17 ∧ b64enc17 l = t := by
  have htake : (t.take 23).length = 23 := by simp [hlen]
  have hfit := b64number_lt (t.take 23)
  have hgroups := b64groups_b64number hdigits
  rw [htake] at hfit hgroups
  have hnumber : beval (be 17 (b64number (t.take 23) / 4)) * 4 = b64number (t.take 23) := by
    rw [beval_be]
    omega
  have hsplit : t.take 23 ++ [chPad] = t := by
    rw [← hpad, List.getD_eq_getElem _ _ (by omega), List.take_append_getElem (by omega),
      List.take_of_length_le hlen.le]
  exact ⟨_, be_length 17 _, by rw [b64enc17, hnumber, hgroups, hsplit]⟩

/-- Rule R200: an encoding is in the accepted set exactly when the sign byte of its bytes is 0 or 1. -/
theorem isB64Text_b64enc17_iff {l : List Byte} (h : l.length = 17) :
    IsB64Text (b64enc17 l) ↔ (l.getD 0 0).toNat ≤ 1 := by
  obtain ⟨c, rest, rfl⟩ : ∃ c rest, l = c :: rest := List.exists_cons_of_length_eq_add_one h
  have hrest : rest.length = 16 := by simpa using h
  have hlt := beval_lt rest
  rw [hrest] at hlt
  have hvalue : beval (c :: rest) = c.toNat * 256 ^ 16 + beval rest := by rw [beval_cons, hrest]
  have hlow : (b64val ((b64enc17 (c :: rest)).getD 22 0)).getD 0 % 4 = 0 := by
    rw [← b64number_take_mod_four (b64enc17_length _), b64number_b64enc17 h, Nat.mul_mod_left]
  have hfirst : (b64enc17 (c :: rest)).getD 0 0 = 0x41#8 ↔ c.toNat / 4 = 0 := by
    rw [b64enc17_getD (by norm_num), b64char_eq_A_iff (Nat.mod_lt _ (by norm_num)), hvalue]
    have := c.isLt
    omega
  have hsecond : (b64val ((b64enc17 (c :: rest)).getD 1 0)).getD 0 < 32 ↔ c.toNat % 4 < 2 := by
    rw [b64enc17_getD (by norm_num), b64val_b64char (Nat.mod_lt _ (by norm_num)), Option.getD_some, hvalue]
    omega
  rw [IsB64Text, hfirst, hsecond, List.getD_cons_zero]
  constructor
  · rintro ⟨-, -, -, -, h1, h2⟩
    omega
  · intro hc
    refine ⟨b64enc17_length _, b64enc17_getD_pad _, ?_, hlow, by omega, by omega⟩
    rw [b64enc17_take]
    exact b64groups_isDigit _ _

/-! ## The decoder -/

/-- Rule R199: an encoding passes the first four checks and is decoded to its bytes. -/
theorem parseB64_b64enc17 {l : List Byte} (h : l.length = 17) : parseB64 (b64enc17 l) = valueOfBytes l := by
  have hdigits : ¬((b64enc17 l).take 23).any (fun c => (b64val c).isNone) = true := by
    rw [b64enc17_take]
    simpa [← Option.isSome_iff_ne_none] using b64groups_isDigit 23 (beval l * 4)
  have hbytes : be 17 ((beval l * 4) >>> 2) = l := by
    rw [Nat.shiftRight_eq_div_pow, Nat.mul_div_cancel _ (by norm_num), ← h, be_beval]
  rw [parseB64, if_neg (not_not.mpr (b64enc17_length l)), if_neg (not_not.mpr (b64enc17_getD_pad l)), if_neg hdigits,
    b64number_b64enc17 h, if_neg (not_not.mpr (Nat.mul_mod_left _ _)), hbytes]

/-- Rule R199: one of the first four checks rejects a text that encodes no 17 bytes. -/
theorem parseB64_of_not_encoding {t : List Byte} (h : ¬∃ l : List Byte, l.length = 17 ∧ b64enc17 l = t) :
    parseB64 t = .error .invalidBase64 := by
  unfold parseB64
  split_ifs with hlen hpad hdigits hlow
  case neg =>
    refine absurd (exists_b64enc17_eq (not_not.mp hlen) (not_not.mp hpad) ?_ (not_not.mp hlow)) h
    simpa [← Option.isSome_iff_ne_none] using hdigits
  all_goals rfl

/-- Rule R200: a text of the accepted set encodes 17 bytes with sign byte 0 or 1. -/
theorem exists_b64enc17_of_isB64Text {t : List Byte} (h : IsB64Text t) :
    ∃ l : List Byte, l.length = 17 ∧ (l.getD 0 0).toNat ≤ 1 ∧ b64enc17 l = t := by
  have haccepted := h
  obtain ⟨hlen, hpad, hdigits, hlow, -, -⟩ := h
  rw [← b64number_take_mod_four hlen] at hlow
  obtain ⟨l, hl, rfl⟩ := exists_b64enc17_eq hlen hpad hdigits hlow
  exact ⟨l, hl, (isB64Text_b64enc17_iff hl).mp haccepted, rfl⟩

/-- Rules R199, R200: every text outside the accepted set is rejected, by the check of the sign byte if by no other. -/
theorem parseB64_of_not_isB64Text {t : List Byte} (h : ¬IsB64Text t) : parseB64 t = .error .invalidBase64 := by
  by_cases hencoding : ∃ l : List Byte, l.length = 17 ∧ b64enc17 l = t
  · obtain ⟨l, hl, rfl⟩ := hencoding
    rw [isB64Text_b64enc17_iff hl, not_le] at h
    rw [parseB64_b64enc17 hl, valueOfBytes, if_pos h]
  · exact parseB64_of_not_encoding hencoding

/-! ## The commands -/

/-- Rule R198: `TOB64` writes the encoding of the sign-magnitude form. -/
theorem exec_tob64 (s : State) : exec .tob64 s = .next (s.writeText (b64enc17 (sm17 s.a))).succeed := rfl

/-- Rule R199: `FROMB64` of an encoding whose bytes have sign byte 0 or 1. -/
theorem exec_fromb64_of_b64enc17 {s : State} {l : List Byte} (hlen : l.length = 17) (hsign : (l.getD 0 0).toNat ≤ 1)
    (h : b64enc17 l = s.inputText) : exec .fromb64 s = .next { s with r := unsm17 l, err := 0, busy := 0 } := by
  rw [exec, execFromb64, ← h, parseB64_b64enc17 hlen, valueOfBytes, if_neg hsign.not_gt]
  rfl

/-- Rule R199: `FROMB64` of a text outside the accepted set. -/
theorem exec_fromb64_of_not_isB64Text {s : State} (h : ¬IsB64Text s.inputText) :
    exec .fromb64 s = .next { s with err := 5, busy := 0 } := by
  rw [exec, execFromb64, parseB64_of_not_isB64Text h]
  rfl

/-- Rule R201: the text written for a value, copied and read, gives the value. -/
theorem runScript_mvt_fromb64 (v : Word) (s : State) :
    ∃ t, runScript [.mvt, .cmd .fromb64] (s.writeText (b64enc17 (sm17 v))).succeed = some (.next t) ∧
      t.r = v ∧ t.a = s.a ∧ t.err = 0 := by
  have htext : ((s.writeText (b64enc17 (sm17 v))).succeed.copyText.issue (encode .fromb64)).inputText =
      b64enc17 (sm17 v) := copyText_writeText_inputText (by simp) s
  have hexec := exec_fromb64_of_b64enc17 (sm17_length v) (sm17_sign_le v) htext.symm
  rw [runScript_mvt rfl]
  exact ⟨_, runScript_cmd rfl hexec, unsm17_sm17 v, by simp, rfl⟩

end Sys2Proof.Machine

namespace Sys2Proof.Proofs.Base64Family

open Sys2Proof.Machine Sys2Proof.Safety

/-- Settles O52: the buffer holds the 24 characters of the encoding, and zeros. -/
theorem tob64EncodesTheByteForm : Obligations.Tob64EncodesTheByteForm := by
  unfold Obligations.Tob64EncodesTheByteForm
  refine ⟨rfl, fun s => ⟨buffer 34 (b64enc17 (sm17 s.a)), exec_tob64 s, fun k => ?groups, ?pad,
    fun k hk => ?zeros⟩⟩
  case groups => rw [buffer_getElem, b64enc17_getD k.isLt]
  case pad => rw [buffer_getElem, b64enc17_getD_pad, chPad]
  case zeros => rw [Fin.getElem_fin, buffer_getElem, List.getD_eq_default _ _ (by simpa using hk)]

/-- Settles O53: the accepted texts are the encodings of the strings with a legal sign byte, one string each. -/
theorem fromb64AcceptsExactlyTheAcceptedSet : Obligations.Fromb64AcceptsExactlyTheAcceptedSet := by
  unfold Obligations.Fromb64AcceptsExactlyTheAcceptedSet
  refine ⟨rfl, fun s h => ?_, fun s => exec_fromb64_of_not_isB64Text⟩
  obtain ⟨l, hlen, hsign, htext⟩ := exists_b64enc17_of_isB64Text h
  exact ⟨l, exec_fromb64_of_b64enc17 hlen hsign htext, hlen, hsign, htext,
    fun l' hlen' htext' => b64enc17_inj hlen hlen' (htext'.trans htext.symm)⟩

/-- Settles O54: the two lines after `TOB64` read back the value whose text it wrote. -/
theorem base64RoundTrip : Obligations.Base64RoundTrip := by
  unfold Obligations.Base64RoundTrip
  intro s hidle
  obtain ⟨t, hrun, ht⟩ := runScript_mvt_fromb64 s.a (s.issue (encode .tob64))
  exact ⟨t, (runScript_cmd hidle (exec_tob64 _)).trans hrun, ht⟩

end Sys2Proof.Proofs.Base64Family
end

section
/-! The exceptions family: the error kinds each command can raise, and what a command leaves in `CMD`, `ERR` and the
operand registers (rules R13, R41, R211, R220). -/

namespace Sys2Proof.Machine

open Sys2Proof.Safety

/-! ## The kinds that the computations raise -/

theorem construct_error {x y : Int} {k : ErrorKind} (h : construct x y = .error k) : k = .divisionByZero := by
  unfold construct at h
  split at h <;> cases h
  rfl

theorem rawQuotient_error {a b : Int} {k : ErrorKind} (h : rawQuotient a b = .error k) : k = .divisionByZero := by
  unfold rawQuotient at h
  split at h <;> cases h
  rfl

theorem valueOfBytes_error {l : List Byte} {k : ErrorKind} (h : valueOfBytes l = .error k) : k = .invalidBase64 := by
  unfold valueOfBytes at h
  split at h <;> cases h
  rfl

theorem preciseText_error {v : Word} {hs le : Nat} {k : ErrorKind} (h : preciseText v hs le = .error k) :
    k = .invalidPrecision := by
  unfold preciseText at h
  split at h <;> cases h
  rfl

/-- Rules R180, R214, R215: a hex text that is not accepted is blank or malformed. -/
theorem parseHex_error {t : List Byte} {k : ErrorKind} (h : parseHex t = .error k) :
    k = .emptyInput ∨ k = .formatError := by
  by_cases hvisible : ∃ c ∈ t, isSpace c = false
  · by_cases htext : ∃ negative H L, IsHexText negative H L t
    · obtain ⟨negative, H, L, hHL⟩ := htext
      rw [parseHex_of_isHexText hHL] at h
      cases h
    · rw [parseHex_of_not_isHexText hvisible htext] at h
      cases h
      exact .inr rfl
  · have hblank : ∀ c ∈ t, isSpace c = true := by simpa using hvisible
    rw [parseHex_of_blank hblank] at h
    cases h
    exact .inl rfl

/-- Rules R199, R216: all five checks of the base64 decoder raise the one kind. -/
theorem parseB64_error {t : List Byte} {k : ErrorKind} (h : parseB64 t = .error k) : k = .invalidBase64 := by
  by_cases hencoding : ∃ l : List Byte, l.length = 17 ∧ b64enc17 l = t
  · obtain ⟨l, hl, rfl⟩ := hencoding
    exact valueOfBytes_error (parseB64_b64enc17 hl ▸ h)
  · rw [parseB64_of_not_encoding hencoding] at h
    cases h
    rfl

/-! ## The kinds that a command raises -/

/-- Rule R211: the kinds a command of the table can raise; `commandResult_error` ties it to the commands. -/
def raisableKinds : Instr → List ErrorKind
  | .cons | .quo => [.divisionByZero]
  | .tohexp => [.invalidPrecision]
  | .fromhex => [.emptyInput, .formatError]
  | .fromb64 | .fromsm => [.invalidBase64]
  | _ => []

theorem eq_error_of_map_eq_error {ε α β : Type} {f : α → β} {x : Except ε α} {k : ε} (h : x.map f = .error k) :
    x = .error k := by
  cases x with
  | ok v => cases h
  | error k' => cases h; rfl

/-- Rule R211: the error of a command is of a kind it can raise. -/
theorem commandResult_error {o : Operands} {i : Instr} {k : ErrorKind} (h : commandResult o i = .error k) :
    k ∈ raisableKinds i := by
  cases i
  case cons => exact List.mem_singleton.mpr (construct_error (eq_error_of_map_eq_error h))
  case quo => exact List.mem_singleton.mpr (rawQuotient_error (eq_error_of_map_eq_error h))
  case tohexp => exact List.mem_singleton.mpr (preciseText_error (eq_error_of_map_eq_error h))
  case fromhex => exact List.mem_pair.mpr (parseHex_error (eq_error_of_map_eq_error h))
  case fromb64 => exact List.mem_singleton.mpr (parseB64_error (eq_error_of_map_eq_error h))
  case fromsm => exact List.mem_singleton.mpr (valueOfBytes_error (eq_error_of_map_eq_error h))
  all_goals cases h

/-! ## What a command leaves in `ERR`, `CMD` and the operand registers -/

/-- Rules R13, R33, R211: a command leaves 0 in `ERR`, or the code of a kind it can raise. -/
theorem exec_err {i : Instr} {s t : State} (h : exec i s = .next t) :
    t.err = 0 ∨ ∃ k ∈ raisableKinds i, t.err = k.code := by
  obtain ⟨w, -, rfl⟩ | ⟨k, hk, rfl⟩ := exec_cases h
  · exact .inl rfl
  · exact .inr ⟨k, commandResult_error hk, rfl⟩

@[simp] theorem State.applyResult_cmd (w : ResultWrite) (s : State) : (s.applyResult w).cmd = s.cmd := by
  cases w <;> rfl

theorem exec_cmd {i : Instr} {s t : State} (h : exec i s = .next t) : t.cmd = s.cmd := by
  obtain ⟨w, -, rfl⟩ | ⟨k, -, rfl⟩ := exec_cases h <;> simp

/-- Rule R32: the execution of a code, of the table or reserved, leaves `CMD` as issued. -/
theorem runCode_cmd {c : BitVec 8} {s t : State} (h : runCode c s = .next t) : t.cmd = s.cmd := by
  obtain ⟨i, -, hi⟩ | ⟨-, hr⟩ := runCode_cases c s
  · exact exec_cmd (hi ▸ h)
  · rw [hr] at h
    cases h
    rfl

/-- Rules R55, R245: a command that is not refused is issued and run. -/
theorem runCode_issue_of_hostAct_cmd {c : BitVec 8} {s t : State} (h : hostAct (.cmd c) s = .next t) :
    runCode c (s.issue c) = .next t := by
  obtain ⟨_, ⟨⟩, -⟩ | ⟨_, ⟨⟩, -⟩ | ⟨_, ⟨⟩, -, hrun⟩ | ⟨⟨⟩, -⟩ := hostAct_cases h
  exact hrun

theorem read_operand_of_operands_eq {s t : State} (h : t.operands = s.operands) {x : Reg} (hx : x.cls = .operand) :
    t.read x = s.read x := by
  obtain ⟨ha, hb, hhs, hle, hib, hit, hitlen⟩ := (State.operands_eq_iff s t).mp h
  cases x
  case a | b | hs | le | ib | it | itlen => simp only [State.read, ha, hb, hhs, hle, hib, hit, hitlen]
  all_goals cases hx

end Sys2Proof.Machine

namespace Sys2Proof.Proofs.ExceptionsFamily

open Sys2Proof.Machine

/-- Settles O13: the command runs at its issued state, where a code of the table leaves 0 or the code of a kind it can
raise, and a reserved code raises `IllegalOp`. -/
theorem errorKindsByCommand : Obligations.ErrorKindsByCommand := by
  unfold Obligations.ErrorKindsByCommand
  refine ⟨⟨rfl, rfl, rfl, rfl, rfl, rfl⟩, fun c s t h => ?_⟩
  have hrun := runCode_issue_of_hostAct_cmd h
  refine ⟨runCode_cmd hrun, fun x => read_operand_of_operands_eq (hostAct_cmd_operands h), ?_⟩
  obtain ⟨i, hdec, hi⟩ | ⟨hdec, hraise⟩ := runCode_cases c (s.issue c)
  · have herr := exec_err (hi ▸ hrun)
    rw [hdec]
    cases i <;> simpa [raisableKinds, ErrorKind.code] using herr
  · rw [hraise] at hrun
    cases hrun
    rw [hdec]
    rfl

end Sys2Proof.Proofs.ExceptionsFamily
end

section
/-! The reset and hazards family: what the host may not ask while a command runs (rule R245), and what every command
gives as the first one after reset (rule R242). -/

namespace Sys2Proof.Machine

/-! ## The host's actions while a command runs -/

theorem hostAct_wr_of_busy {s : State} (h : s.busy = 1) (w : OperandWrite) :
    hostAct (.wr w) s = .refused .hostActionWhileBusy := if_pos h

theorem hostAct_cmd_of_busy {s : State} (h : s.busy = 1) (c : BitVec 8) :
    hostAct (.cmd c) s = .refused .hostActionWhileBusy := if_pos h

/-- Rule R245 at the pins: while a command runs, `cmd_valid` and every write port are refused unless `rst` is high. -/
theorem clock_of_busy {p : PinsIn} {m : Clocked} (hbusy : m.core.busy = 1) (hrst : p.rst = false)
    (hasked : p.cmdValid = true ∨ p.writes ≠ []) : clock p m = .refused .hostActionWhileBusy := by
  rw [clock, hrst, if_neg Bool.false_ne_true, if_pos hbusy, if_pos hasked]

/-! ## A command of the table on an idle core -/

/-- Rules R55, R72: a command of the table is issued and executed. -/
theorem hostAct_encode_of_idle {s : State} (hidle : s.busy = 0) (i : Instr) :
    hostAct (.cmd (encode i)) s = exec i (s.issue (encode i)) := by
  rw [hostAct_cmd_of_idle hidle, runCode, decode_encode]

/-- Rules R13, R32: a command that has a result writes it, its code and 0 to `ERR`. -/
theorem hostAct_encode_of_ok {s : State} {i : Instr} {w : ResultWrite} (hidle : s.busy = 0)
    (h : commandResult s.operands i = .ok w) :
    hostAct (.cmd (encode i)) s = .next { s.applyResult w with cmd := encode i, err := 0 } := by
  rw [hostAct_encode_of_idle hidle, exec_eq_finish, State.issue_operands, h, finish]
  cases s
  cases hidle
  cases w <;> rfl

/-- Rules R13, R32, R221: a command that raises writes its code and the kind's. -/
theorem hostAct_encode_of_error {s : State} {i : Instr} {k : ErrorKind} (hidle : s.busy = 0)
    (h : commandResult s.operands i = .error k) :
    hostAct (.cmd (encode i)) s = .next { s with cmd := encode i, err := k.code } := by
  rw [hostAct_encode_of_idle hidle, exec_eq_finish, State.issue_operands, h, finish,
    State.raise_issue_of_idle hidle]

/-! ## The commands on operands that are all zero -/

/-- Rules R30, R31: a buffer filled from a string of zeros is a cleared buffer. -/
theorem buffer_zeros (n k : Nat) : buffer n (zeros k) = Vector.replicate n 0 := by
  apply Vector.ext
  intro i hi
  rw [buffer_getElem, Vector.getElem_replicate, zeros, List.getD_eq_getElem?_getD, List.getElem?_replicate]
  split <;> rfl

/-- Rule R165: the sign-magnitude form of zero. -/
theorem sm17_zero : sm17 ZERO = zeros 17 := rfl

/-- Rules R197, R198: the text of zero, 23 groups of value 0 and the padding. -/
theorem b64enc17_sm17_zero : b64enc17 (sm17 ZERO) = List.replicate 23 0x41 ++ [0x3D] := by
  rw [b64enc17, sm17_zero, beval_zeros]
  rfl

/-- What each command gives when every operand register is zero; `commandResult_reset` ties it to the commands. -/
def resetResult : Instr → Except ErrorKind ResultWrite
  | .add | .sub | .neg | .mul | .fromsm => .ok (.r 0)
  | .mulint => .ok (.ir 0)
  | .cmp | .sign | .isneg => .ok (.sr 0)
  | .iszero => .ok (.sr 1)
  | .tob16 => .ok (.bytes (zeros 16))
  | .tosm => .ok (.bytes (zeros 17))
  | .tohex => .ok (.text [0x30, 0x30, 0x2E, 0x30, 0x30])
  | .tob64 => .ok (.text (List.replicate 23 0x41 ++ [0x3D]))
  | .cons | .quo => .error .divisionByZero
  | .tohexp => .error .invalidPrecision
  | .fromhex => .error .emptyInput
  | .fromb64 => .error .invalidBase64

/-- Rule R242: the first command after reset runs on operands that are all zero. -/
theorem commandResult_reset (i : Instr) : commandResult State.reset.operands i = resetResult i := by
  cases i
  case tohex => exact congrArg (fun t => Except.ok (ResultWrite.text t)) hexText_zero
  case tob64 => exact congrArg (fun t => Except.ok (ResultWrite.text t)) b64enc17_sm17_zero
  all_goals rfl

/-- Rules R13, R242: a first command that has a result. -/
theorem hostAct_cmd_reset_of_ok {i : Instr} {w : ResultWrite} (h : resetResult i = .ok w) :
    hostAct (.cmd (encode i)) State.reset = .next { State.reset.applyResult w with cmd := encode i, err := 0 } :=
  hostAct_encode_of_ok rfl ((commandResult_reset i).trans h)

/-- Rules R221, R242: a first command that raises. -/
theorem hostAct_cmd_reset_of_error {i : Instr} {k : ErrorKind} (h : resetResult i = .error k) :
    hostAct (.cmd (encode i)) State.reset = .next { State.reset with cmd := encode i, err := k.code } :=
  hostAct_encode_of_error rfl ((commandResult_reset i).trans h)

/-- Rules R13, R40, R242: the commands whose first result is what its register holds after reset already. -/
theorem applyResult_reset_eq_reset {i : Instr}
    (hi : i ∈ [Instr.add, .sub, .neg, .mul, .cmp, .sign, .isneg, .mulint, .fromsm]) :
    ∃ w, resetResult i = .ok w ∧ State.reset.applyResult w = State.reset := by
  fin_cases hi <;> exact ⟨_, rfl, rfl⟩

/-- Rules R30, R40: a first command whose result is a string of zeros shows it in `OBLEN` only. -/
theorem hostAct_cmd_reset_of_zeros {i : Instr} {k : Nat} (h : resetResult i = .ok (.bytes (zeros k))) :
    hostAct (.cmd (encode i)) State.reset =
      .next { State.reset with cmd := encode i, oblen := BitVec.ofNat 5 k } := by
  rw [hostAct_cmd_reset_of_ok h, State.applyResult, State.writeBytes, buffer_zeros, zeros, List.length_replicate]
  rfl

end Sys2Proof.Machine

namespace Sys2Proof.Proofs.ResetFamily

open Sys2Proof.Machine

/-- Settles O17: in both machines the test of `BUSY` comes before the action is looked at, and only reset comes before
that test. -/
theorem hostActionWhileBusyIsRefused : Obligations.HostActionWhileBusyIsRefused := by
  unfold Obligations.HostActionWhileBusyIsRefused
  exact ⟨fun s h => ⟨hostAct_wr_of_busy h, hostAct_cmd_of_busy h, s.resetRegs, rfl, s.resetRegs_read⟩,
    fun _ _ => clock_of_busy⟩

/-- Settles O57: each command writes what the table `resetResult` says of operands that are all zero; where that is
what the result registers hold after reset already, `CMD` alone changes. -/
theorem firstCommandAfterReset : Obligations.FirstCommandAfterReset := by
  unfold Obligations.FirstCommandAfterReset
  refine ⟨fun i hi => ?unchanged, fun i hi => ?divide, hostAct_cmd_reset_of_ok (i := .iszero) rfl,
    hostAct_cmd_reset_of_zeros (i := .tob16) rfl, hostAct_cmd_reset_of_zeros (i := .tosm) rfl,
    hostAct_cmd_reset_of_ok (i := .tohex) rfl, hostAct_cmd_reset_of_error (i := .tohexp) rfl,
    hostAct_cmd_reset_of_error (i := .fromhex) rfl, hostAct_cmd_reset_of_ok (i := .tob64) rfl,
    hostAct_cmd_reset_of_error (i := .fromb64) rfl, ?reserved⟩
  case unchanged =>
    obtain ⟨w, hw, hsame⟩ := applyResult_reset_eq_reset hi
    rw [hostAct_cmd_reset_of_ok hw, hsame]
    rfl
  case divide =>
    have hzero : resetResult i = .error .divisionByZero := by fin_cases hi <;> rfl
    exact hostAct_cmd_reset_of_error hzero
  case reserved =>
    rw [hostAct_cmd_of_idle rfl, runCode_of_decode_error (e := .reserved 0) rfl, State.raise_issue_of_idle rfl]
    rfl

end Sys2Proof.Proofs.ResetFamily
end

section
/-! The whole machine: what a step, a host action and a command keep and leave, the invariant of a run, the clock edges
of the pins and the lines of a script; and the statements that put two commands together or read a quotient by its signs
(rules R29 to R35, R51 to R55, R60, R70 to R75, R106 to R108, R128, R182, R211, R225, R241 to R244). -/

namespace Sys2Proof.Machine

open Sys2Proof.Safety

/-! ## The decoder -/

/-- Rule R72: the code column of the command table is the encoder's. -/
theorem encode_of_mem_commandTable : ∀ row ∈ commandTable, encode row.instr = row.code := by
  decide

/-- Rules R70, R72: a code that decodes to a command is the code of that command. -/
theorem encode_of_decode {c : BitVec 8} {i : Instr} (h : decode c = .ok i) : encode i = c := by
  unfold decode at h
  split at h
  next row hfind =>
    cases h
    rw [encode_of_mem_commandTable row (List.mem_of_find?_eq_some hfind)]
    simpa using List.find?_some hfind
  next => cases h

/-! ## What a command leaves unchanged -/

/-- Rule R35: a register outside the group a result is for reads as before. -/
theorem read_applyResult_of_notMem {w : ResultWrite} {x : Reg} (hx : x ∉ w.regs) (s : State) :
    (s.applyResult w).read x = s.read x := by
  cases w with
  | r v =>
    cases x
    case r => simp [ResultWrite.regs] at hx
    all_goals rfl
  | ir v =>
    cases x
    case ir => simp [ResultWrite.regs] at hx
    all_goals rfl
  | sr v =>
    cases x
    case sr => simp [ResultWrite.regs] at hx
    all_goals rfl
  | bytes l =>
    cases x
    case ob | oblen => simp [ResultWrite.regs] at hx
    all_goals rfl
  | text t =>
    cases x
    case ot | otlen => simp [ResultWrite.regs] at hx
    all_goals rfl

/-- Rules R13, R33, R34: completion, with an error or without, writes `ERR` and `BUSY` only. -/
theorem read_completed {x : Reg} (herr : x ≠ .err) (hbusy : x ≠ .busy) (e : BitVec 3) (s : State) :
    ({ s with err := e, busy := 0 } : State).read x = s.read x := by
  cases x
  case err => exact absurd rfl herr
  case busy => exact absurd rfl hbusy
  all_goals rfl

/-- Rules R35, R246: a command leaves every register outside its row of the table. -/
theorem exec_read {i : Instr} {s t : State} (h : exec i s = .next t) {x : Reg} (hx : x ∉ commandWrites i)
    (herr : x ≠ .err) (hbusy : x ≠ .busy) : t.read x = s.read x := by
  obtain ⟨w, hw, rfl⟩ | ⟨k, -, rfl⟩ := exec_cases h
  · have hx' : x ∉ w.regs := commandResult_regs hw ▸ hx
    exact (read_completed herr hbusy 0 _).trans (read_applyResult_of_notMem hx' s)
  · exact read_completed herr hbusy k.code s

/-- Rules R13, R221: a command that ends with an error has raised it. -/
theorem runCode_of_err_ne_zero {c : BitVec 8} {s t : State} (h : runCode c s = .next t) (herr : t.err ≠ 0) :
    ∃ k, t = s.raise k := by
  obtain ⟨i, -, hi⟩ | ⟨-, hraise⟩ := runCode_cases c s
  · obtain ⟨w, -, rfl⟩ | ⟨k, -, rfl⟩ := exec_cases (hi ▸ h)
    · exact absurd rfl herr
    · exact ⟨k, rfl⟩
  · rw [hraise] at h
    cases h
    exact ⟨_, rfl⟩

/-! ## The host's writes and reads -/

/-- Rules R51, R245: a write to an idle core is done. -/
theorem hostAct_wr_of_idle {s : State} (hidle : s.busy = 0) (w : OperandWrite) :
    hostAct (.wr w) s = .next (s.applyWrite w) := by
  rw [hostAct, hidle, if_neg (by decide)]

/-- Rule R53: what a register reads does not depend on the record of the reads. -/
theorem read_seen (s : State) (l : List ReadData) (x : Reg) : ({ s with seen := l } : State).read x = s.read x := by
  cases x <;> rfl

/-! ## Progress -/

/-- Rules R13, R221: every code completes. -/
theorem runCode_completes (c : BitVec 8) (s : State) : ∃ t, runCode c s = .next t ∧ t.busy = 0 := by
  obtain ⟨i, -, hi⟩ | ⟨-, hraise⟩ := runCode_cases c s
  · obtain ⟨t, ht, hbusy, -⟩ := exec_completes i s
    exact ⟨t, hi.trans ht, hbusy⟩
  · exact ⟨_, hraise, rfl⟩

/-- Rules R51, R225: on an idle core every host action completes and leaves the core idle. -/
theorem hostAct_completes_of_idle {s : State} (hidle : s.busy = 0) (act : HostAction) :
    ∃ t, hostAct act s = .next t ∧ t.busy = 0 := by
  cases act with
  | wr w => exact ⟨s.applyWrite w, hostAct_wr_of_idle hidle w, (s.applyWrite_busy w).trans hidle⟩
  | rd x => exact ⟨_, rfl, hidle⟩
  | cmd c => rw [hostAct_cmd_of_idle hidle]; exact runCode_completes c _
  | reset => exact ⟨_, rfl, rfl⟩

/-! ## The list of actions to come -/

/-- The state with another list of host actions to come. -/
def State.setScript (l : List HostAction) (s : State) : State := { s with script := l }

/-- An outcome with another list of host actions in its next state. -/
def outcomeSetScript (l : List HostAction) :
    Host.Outcome State Fault Refusal → Host.Outcome State Fault Refusal
  | .next t => .next (t.setScript l)
  | .fault k => .fault k
  | .refused k => .refused k

theorem exec_setScript (l : List HostAction) (i : Instr) (s : State) :
    exec i (s.setScript l) = outcomeSetScript l (exec i s) := by
  have hoperands : (s.setScript l).operands = s.operands := rfl
  rw [exec_eq_finish, exec_eq_finish, hoperands]
  cases commandResult s.operands i with
  | ok w => cases w <;> rfl
  | error k => rfl

theorem runCode_setScript (l : List HostAction) (c : BitVec 8) (s : State) :
    runCode c (s.setScript l) = outcomeSetScript l (runCode c s) := by
  unfold runCode
  split
  · exact exec_setScript l _ s
  · rfl

/-- Rule R60: no host action reads or changes the list of the actions after it. -/
theorem hostAct_setScript (l : List HostAction) (act : HostAction) (s : State) :
    hostAct act (s.setScript l) = outcomeSetScript l (hostAct act s) := by
  cases act with
  | wr w =>
    have hwrite : (s.setScript l).applyWrite w = (s.applyWrite w).setScript l := by cases w <;> rfl
    have hbusy : (s.setScript l).busy = s.busy := rfl
    rw [hostAct, hostAct, hwrite, hbusy]
    split <;> rfl
  | rd x => cases x <;> rfl
  | cmd c =>
    have hbusy : (s.setScript l).busy = s.busy := rfl
    rw [hostAct, hostAct, hbusy]
    split
    · rfl
    · exact runCode_setScript l c (s.issue c)
  | reset => rfl

/-- Rules R60, R243: a run of as many steps as there are actions performs them one after another. -/
theorem run_setScript (acts : List HostAction) (s : State) :
    Sys2Proof.core.run acts.length (s.setScript acts) = hostActs acts (s.setScript []) := by
  induction acts generalizing s with
  | nil => rfl
  | cons act rest ih =>
    have hstep : step (s.setScript (act :: rest)) = outcomeSetScript rest (hostAct act s) :=
      (step_act rfl).trans (hostAct_setScript rest act s)
    rw [List.length_cons, hostActs, hostAct_setScript]
    cases hact : hostAct act s with
    | next t =>
      rw [hact] at hstep
      exact (run_succ_next _ hstep).trans (ih t)
    | fault k => cases k
    | refused k =>
      rw [hact] at hstep
      exact run_succ_refused _ hstep

/-! ## Commands placed by their word -/

/-- Rule R70: a word that is read as a command is that command's code. -/
theorem decode_of_decodeTableWord {nbits w : Nat} {i : Instr} (h : decodeTableWord nbits w = some i) :
    w % 2 ^ nbits = w ∧ decode (BitVec.ofNat 8 w) = .ok i := by
  unfold decodeTableWord at h
  split at h
  next hfits =>
    obtain ⟨-, hlt⟩ := hfits
    refine ⟨Nat.mod_eq_of_lt hlt, ?_⟩
    split at h
    next hdec => cases h; exact hdec
    next => cases h
  next => cases h

/-- Rules R55, R72: a step whose next action is the code of a command, on an idle core. -/
theorem step_cmd_of_decode {s : State} {c : BitVec 8} {rest : List HostAction} {i : Instr}
    (hscript : s.script = .cmd c :: rest) (hidle : s.busy = 0) (hdec : decode c = .ok i) :
    step s = exec i { s with script := rest, cmd := c, busy := 1 } := by
  rw [step_act hscript, hostAct_cmd_of_idle (s := { s with script := rest }) hidle, runCode, hdec]
  rfl

/-! ## The registers the invariant speaks of -/

/-- The result, control and status registers that `Safety.Inv` constrains: those of rule R20 that are no operand
register, but for `R` and `IR`, which may hold any value. -/
structure Observed where
  sr    : BitVec 2
  ob    : Vector Byte 17
  oblen : BitVec 5
  ot    : Vector Byte 34
  otlen : BitVec 6
  cmd   : BitVec 8
  err   : BitVec 3
  busy  : BitVec 1

/-- What those registers hold. -/
def State.observed (s : State) : Observed :=
  { sr := s.sr, ob := s.ob, oblen := s.oblen, ot := s.ot, otlen := s.otlen, cmd := s.cmd, err := s.err, busy := s.busy }

/-- Rule R52: no write port reaches them. -/
@[simp] theorem State.applyWrite_observed (w : OperandWrite) (s : State) : (s.applyWrite w).observed = s.observed := by
  cases w <;> rfl

/-- The invariant depends on no other register and on neither of the host's own fields. -/
theorem inv_of_observed_eq {s t : State} (hs : Inv s) (h : t.observed = s.observed) : Inv t := by
  simp only [State.observed, Observed.mk.injEq] at h
  obtain ⟨hsr, hob, hoblen, hot, hotlen, hcmd, herr, hbusy⟩ := h
  obtain ⟨hidle, hsmall, hbytes, htext, herror, hreserved⟩ := hs
  constructor
  · rwa [hbusy]
  · rwa [hsr]
  · rw [OutputBytesOk, hob, hoblen]; exact hbytes
  · rw [OutputTextOk, hot, hotlen]; exact htext
  · rw [ErrorMatchesCommand, hcmd, herr]; exact herror
  · rw [ReservedReported, hcmd, herr]; exact hreserved

/-! ## The results a command writes -/

/-- The part of the invariant that speaks of the result registers (rules R29, R30, R31). -/
def ResultsOk (s : State) : Prop := s.sr ≠ 0b10#2 ∧ OutputBytesOk s ∧ OutputTextOk s

/-- What rules R29, R30 and R31 ask of a result: no small result `0b10`; 16 bytes, or 17 with sign byte 0 or 1; 5 to
34 characters of printable ASCII. `resultsOk_applyResult` ties it to the registers. -/
def ResultWrite.Ok : ResultWrite → Prop
  | .r _ | .ir _ => True
  | .sr v => v ≠ 0b10#2
  | .bytes l => l.length = 16 ∨ (l.length = 17 ∧ (l.getD 0 0).toNat ≤ 1)
  | .text t => 5 ≤ t.length ∧ t.length ≤ 34 ∧ ∀ c ∈ t, 0x20 < c.toNat ∧ c.toNat < 0x80

/-- Rule R29: no comparison gives `0b10`. -/
theorem signCode_ne (n : Int) : signCode n ≠ 0b10#2 := by
  rw [signCode_eq_ite]
  split_ifs <;> decide

theorem truthCode_ne (p : Bool) : truthCode p ≠ 0b10#2 := by
  cases p <;> decide

/-- Rules R178, R181: a hex text at a legal pair. -/
theorem hexText_ok {v : Word} {hs le : Nat} (h : legalPrecision hs le = true) :
    (ResultWrite.text (hexText (sm17 v) hs le)).Ok := by
  obtain ⟨-, hmin, hmax⟩ := hexText_length (sm17_length v) h
  exact ⟨hmin, hmax, hexText_printable _ _ _⟩

/-- Rules R29, R30, R31: every command's result is one its registers may hold. -/
theorem commandResult_ok {o : Operands} {i : Instr} {w : ResultWrite} (h : commandResult o i = .ok w) : w.Ok := by
  cases i
  case cons | quo | fromsm | fromhex | fromb64 =>
    have hregs := commandResult_regs h
    cases w
    case r => trivial
    all_goals cases hregs
  case add | sub | neg | mul | mulint => cases h; trivial
  case cmp | sign => cases h; exact signCode_ne _
  case isneg | iszero => cases h; exact truthCode_ne _
  case tob16 => cases h; exact .inl (be_length 16 _)
  case tosm => cases h; exact .inr ⟨sm17_length _, sm17_sign_le _⟩
  case tohex => cases h; exact hexText_ok (autoPrecision_legal _)
  case tohexp =>
    rw [commandResult, preciseText] at h
    split at h
    next hlegal => cases h; exact hexText_ok hlegal
    next => cases h
  case tob64 => cases h; exact ⟨by simp, by simp, b64enc17_printable _⟩

theorem outputBytesOk_writeBytes {l : List Byte} {s : State} (h : (ResultWrite.bytes l).Ok) :
    OutputBytesOk (s.writeBytes l) := by
  have hlen : (BitVec.ofNat 5 l.length).toNat = l.length := by
    obtain h | ⟨h, -⟩ := h <;> rw [h] <;> rfl
  refine ⟨?_, fun i hi => ?_, fun h17 => ?_⟩
  · obtain h | ⟨h, -⟩ := h
    · exact .inr (.inl (congrArg (BitVec.ofNat 5) h))
    · exact .inr (.inr (congrArg (BitVec.ofNat 5) h))
  · rw [State.writeBytes_oblen, hlen] at hi
    rw [State.writeBytes_ob, Fin.getElem_fin, buffer_getElem, List.getD_eq_default _ _ hi]
  · rw [State.writeBytes_ob, buffer_getElem]
    obtain h | ⟨-, h⟩ := h
    · rw [State.writeBytes_oblen, h] at h17
      exact absurd h17 (by decide)
    · exact h

theorem outputTextOk_writeText {t : List Byte} {s : State} (h : (ResultWrite.text t).Ok) :
    OutputTextOk (s.writeText t) := by
  obtain ⟨hmin, hmax, hprint⟩ := h
  have hlen : (BitVec.ofNat 6 t.length).toNat = t.length := by rw [BitVec.toNat_ofNat]; omega
  rw [OutputTextOk, State.writeText_otlen, State.writeText_ot, hlen]
  refine ⟨.inr ⟨hmin, hmax⟩, fun i hi => ?_, fun i hi => ?_⟩
  · rw [Fin.getElem_fin, buffer_getElem, List.getD_eq_default _ _ hi]
  · rw [Fin.getElem_fin, buffer_getElem, List.getD_eq_getElem _ _ hi]
    exact hprint _ (List.getElem_mem hi)

/-- Writing a result leaves the result registers as the invariant asks. -/
theorem resultsOk_applyResult {w : ResultWrite} {s : State} (hw : w.Ok) (h : ResultsOk s) :
    ResultsOk (s.applyResult w) := by
  obtain ⟨hsmall, hbytes, htext⟩ := h
  cases w with
  | r v => exact ⟨hsmall, hbytes, htext⟩
  | ir v => exact ⟨hsmall, hbytes, htext⟩
  | sr v => exact ⟨hw, hbytes, htext⟩
  | bytes l => exact ⟨hsmall, outputBytesOk_writeBytes hw, htext⟩
  | text t => exact ⟨hsmall, hbytes, outputTextOk_writeText hw⟩

/-- Rules R13, R29, R30, R31: a command that succeeds writes such a result, and one that raises writes none. -/
theorem exec_resultsOk {i : Instr} {s t : State} (hs : ResultsOk s) (h : exec i s = .next t) : ResultsOk t := by
  obtain ⟨w, hw, rfl⟩ | ⟨k, -, rfl⟩ := exec_cases h
  · exact resultsOk_applyResult (commandResult_ok hw) hs
  · exact hs

/-! ## The error a command leaves -/

/-- Rule R211: the code of a kind that command `i` can raise, with the code of `i` in `CMD`. -/
theorem errorMatchesCommand_of_raisable {i : Instr} {k : ErrorKind} {t : State} (hk : k ∈ raisableKinds i)
    (hcmd : t.cmd = encode i) (herr : t.err = k.code) : ErrorMatchesCommand t := by
  rw [ErrorMatchesCommand, hcmd, herr]
  cases i
  case cons | quo | tohexp | fromb64 | fromsm =>
    cases List.mem_singleton.mp hk
    decide
  case fromhex =>
    obtain rfl | rfl := List.mem_pair.mp hk <;> decide
  all_goals cases hk

/-- Rules R33, R72, R211: a command of the table leaves `ERR` as `CMD` allows. -/
theorem exec_errorMatchesCommand {i : Instr} {s t : State} (hcmd : s.cmd = encode i) (h : exec i s = .next t) :
    ErrorMatchesCommand t := by
  obtain herr | ⟨k, hk, herr⟩ := exec_err h
  · exact .inl herr
  · exact errorMatchesCommand_of_raisable hk ((exec_cmd h).trans hcmd) herr

/-- Rule R34: a command that has completed has cleared `BUSY`. -/
theorem exec_busy {i : Instr} {s t : State} (h : exec i s = .next t) : t.busy = 0 := by
  obtain ⟨w, -, rfl⟩ | ⟨k, -, rfl⟩ := exec_cases h <;> rfl

/-! ## The invariant of a run -/

/-- A code of the table, executed at its issued state. -/
theorem exec_inv {i : Instr} {s t : State} (hs : ResultsOk s) (hcmd : s.cmd = encode i) (h : exec i s = .next t) :
    Inv t := by
  obtain ⟨hsmall, hbytes, htext⟩ := exec_resultsOk hs h
  refine ⟨exec_busy h, hsmall, hbytes, htext, exec_errorMatchesCommand hcmd h, fun hreserved => ?_⟩
  rw [exec_cmd h, hcmd, decode_encode] at hreserved
  cases hreserved

/-- A reserved code, rejected at its issued state (rules R73, R217). -/
theorem raise_illegalOp_inv {s : State} (hs : ResultsOk s) (hdec : decode s.cmd = .error (.reserved s.cmd)) :
    Inv (s.raise .illegalOp) := by
  obtain ⟨hsmall, hbytes, htext⟩ := hs
  exact ⟨rfl, hsmall, hbytes, htext, .inr (.inr (.inr (.inr (.inr (.inr ⟨rfl, hdec⟩))))), fun _ => .inl rfl⟩

/-- Every code, issued and run. -/
theorem runCode_issue_inv {c : BitVec 8} {s t : State} (hs : Inv s) (h : runCode c (s.issue c) = .next t) : Inv t := by
  have hissued : ResultsOk (s.issue c) := ⟨hs.smallResult, hs.outputBytes, hs.outputText⟩
  obtain ⟨i, hdec, hi⟩ | ⟨hdec, hraise⟩ := runCode_cases c (s.issue c)
  · exact exec_inv hissued (encode_of_decode hdec).symm (hi ▸ h)
  · rw [hraise] at h
    cases h
    exact raise_illegalOp_inv hissued hdec

/-- Rules R40, R240: the invariant holds at reset. -/
theorem inv_reset : Inv State.reset where
  notBusy := rfl
  smallResult := by decide
  outputBytes := ⟨.inl rfl, fun i _ => by simp [State.reset], fun h => absurd h (by decide)⟩
  outputText := ⟨.inl rfl, fun i _ => by simp [State.reset], fun i h => absurd h (Nat.not_lt_zero _)⟩
  errorMatches := .inl rfl
  reservedReported := fun _ => .inr ⟨rfl, rfl⟩

/-- Rules R51, R55: each of the four host actions keeps the invariant. -/
theorem hostAct_inv {act : HostAction} {s t : State} (hs : Inv s) (h : hostAct act s = .next t) : Inv t := by
  obtain ⟨w, -, -, rfl⟩ | ⟨x, -, rfl⟩ | ⟨c, -, -, hrun⟩ | ⟨-, rfl⟩ := hostAct_cases h
  · exact inv_of_observed_eq hs (s.applyWrite_observed w)
  · exact inv_of_observed_eq hs rfl
  · exact runCode_issue_inv hs hrun
  · exact inv_of_observed_eq inv_reset rfl

/-! ## The truncated quotient of raw values -/

/-- Rule R122: the one quotient that overflows is that of `-2^127` and `-1`. -/
theorem toInt_wrap_tdiv {x y : Word} (h0 : y.toInt ≠ 0) (h : ¬(x.toInt = -2 ^ 127 ∧ y.toInt = -1)) :
    (wrap 128 (tdiv x.toInt y.toInt)).toInt = x.toInt.tdiv y.toInt := by
  have hge : -2 ^ 127 ≤ x.toInt := BitVec.le_toInt x
  have hlt : x.toInt < 2 ^ 127 := BitVec.toInt_lt
  rw [tdiv_eq_tdiv]
  refine (wrap_toInt_eq_iff (by norm_num) _).mpr ?_
  by_cases hneg : y.toInt = -1
  · rw [hneg, Int.tdiv_neg, Int.tdiv_one]
    omega
  by_cases hone : y.toInt = 1
  · rw [hone, Int.tdiv_one]
    exact ⟨hge, hlt⟩
  have hhalf : (x.toInt.tdiv y.toInt).natAbs ≤ x.toInt.natAbs / 2 := by
    rw [Int.natAbs_tdiv]
    exact Nat.div_le_div_left (by omega) two_pos
  omega

/-- Rules R10, R128: the quotient is that of the magnitudes with the product of the signs. -/
theorem tdiv_eq_sign_mul_natAbs (a b : Int) :
    Int.tdiv a b = a.sign * b.sign * ((a.natAbs : Int) / (b.natAbs : Int)) := by
  rw [← tdiv_eq_tdiv, tdiv_eq_sign_mul, Int.natCast_div]

/-- Rule R128: the remainder has the sign of the dividend. -/
theorem tmod_mul_nonneg (a b : Int) : 0 ≤ a.tmod b * a := by
  obtain ha | ha := le_total 0 a
  · exact mul_nonneg (Int.tmod_nonneg b ha) ha
  · have hneg : 0 ≤ (-a).tmod b := Int.tmod_nonneg b (by omega)
    rw [Int.neg_tmod] at hneg
    exact mul_nonneg_of_nonpos_of_nonpos (by omega) ha

/-! ## The quotient of `CONS` where it fits -/

/-- Rules R105, R108: where nothing of the quotient is cut off, it is that of the magnitudes with the product of the
signs. -/
theorem signedQuotient_eq {x y : Int} (hy : y ≠ 0) (h : x.natAbs * 2 ^ 64 / y.natAbs < 2 ^ 128) :
    signedQuotient x y = x.sign * y.sign * ((x.natAbs * 2 ^ 64 / y.natAbs : Nat) : Int) := by
  rw [← ite_xor_neg_eq_sign_mul_sign_mul hy fun hx => by simp [hx], signedQuotient, Nat.mod_eq_of_lt h]
  by_cases hx : x < 0 <;> by_cases hy : y < 0 <;> simp [hx, hy]

/-- Rule R10: a signed quotient of magnitudes has its magnitude. -/
theorem natAbs_sign_mul_sign_mul {x y : Int} (hy : y ≠ 0) {n : Nat} (hn : x = 0 → n = 0) :
    (x.sign * y.sign * (n : Int)).natAbs = n := by
  rw [Int.natAbs_mul, Int.natAbs_mul, Int.natAbs_sign, Int.natAbs_sign, if_neg hy, Int.natAbs_natCast]
  split
  next hx => rw [hn hx, mul_zero]
  next => rw [one_mul, one_mul]

/-- Rule R108: the quotients that `R` holds exactly. -/
theorem toInt_wrap_signedQuotient {x y : Int} (hy : y ≠ 0)
    (h : x.natAbs * 2 ^ 64 / y.natAbs < 2 ^ 127 ∨
      (x.natAbs * 2 ^ 64 / y.natAbs = 2 ^ 127 ∧ x.sign * y.sign = -1)) :
    (wrap 128 (signedQuotient x y)).toInt = x.sign * y.sign * ((x.natAbs * 2 ^ 64 / y.natAbs : Nat) : Int) := by
  rw [signedQuotient_eq hy (by omega)]
  obtain h | ⟨h, hsign⟩ := h
  · have hmag : (x.sign * y.sign * ((x.natAbs * 2 ^ 64 / y.natAbs : Nat) : Int)).natAbs = _ :=
      natAbs_sign_mul_sign_mul hy fun hx => by simp [hx]
    apply wrap_toInt_of_range <;> omega
  · rw [h, hsign]
    decide

/-- A fraction's magnitude, by those of its numerator and its denominator. -/
theorem abs_intCast_div_intCast (x y : Int) : |(x : Rat) / y| = (x.natAbs : Rat) / y.natAbs := by
  rw [abs_div, Nat.cast_natAbs, Nat.cast_natAbs, Int.cast_abs, Int.cast_abs]

/-! What follows is of a word `v` that holds such a quotient of `x` by `y`. -/

section Quotient

variable {x y : Int} {v : Word} (hy : y ≠ 0)
  (hv : v.toInt = x.sign * y.sign * ((x.natAbs * 2 ^ 64 / y.natAbs : Nat) : Int))
include hy hv

/-- Rule R105: the magnitude of the value is the quotient of the magnitudes. -/
theorem natAbs_of_quotient : v.toInt.natAbs = x.natAbs * 2 ^ 64 / y.natAbs := by
  rw [hv, natAbs_sign_mul_sign_mul hy fun hx => by simp [hx]]

/-- Rule R14: the represented magnitude. -/
theorem abs_realOf_of_quotient : |realOf v| = (x.natAbs * 2 ^ 64 / y.natAbs : Nat) / 2 ^ 64 := by
  rw [← natAbs_of_quotient hy hv, realOf, abs_div, Nat.cast_natAbs, raw, sint, Int.cast_abs]
  norm_num

/-- Rule R106: the value is not beyond the fraction. -/
theorem abs_realOf_le_abs_div : |realOf v| ≤ |(x : Rat) / y| := by
  have hpos : (0 : Rat) < y.natAbs := by exact_mod_cast Int.natAbs_pos.mpr hy
  have hle : (x.natAbs * 2 ^ 64 / y.natAbs : Nat) * y.natAbs ≤ x.natAbs * 2 ^ 64 := Nat.div_mul_le_self _ _
  rw [abs_realOf_of_quotient hy hv, abs_intCast_div_intCast, div_le_div_iff₀ (by positivity) hpos]
  exact_mod_cast hle

/-- Rule R106: the fraction is not beyond the next multiple of `2^-64`. -/
theorem abs_div_lt_abs_realOf_add : |(x : Rat) / y| < |realOf v| + 1 / 2 ^ 64 := by
  have hpos : (0 : Rat) < y.natAbs := by exact_mod_cast Int.natAbs_pos.mpr hy
  have hlt : x.natAbs * 2 ^ 64 < (x.natAbs * 2 ^ 64 / y.natAbs + 1) * y.natAbs :=
    Nat.lt_mul_of_div_lt (Nat.lt_succ_self _) (Int.natAbs_pos.mpr hy)
  rw [abs_realOf_of_quotient hy hv, ← add_div, abs_intCast_div_intCast, div_lt_div_iff₀ hpos (by positivity)]
  exact_mod_cast hlt

/-- Rule R107: the value has the sign of the fraction. -/
theorem realOf_mul_div_nonneg : 0 ≤ realOf v * ((x : Rat) / y) := by
  have hprod : v.toInt * (x * y) = (x.natAbs * 2 ^ 64 / y.natAbs : Nat) * (x.natAbs * y.natAbs : Nat) := by
    rw [hv, Nat.cast_mul, ← Int.sign_mul_self x, ← Int.sign_mul_self y]
    ring
  have hnonneg : (0 : Rat) ≤ v.toInt * (x * y) := by
    have := (Int.natCast_nonneg _).trans_eq hprod.symm
    exact_mod_cast this
  have hy' : (y : Rat) ≠ 0 := by exact_mod_cast hy
  have heq : realOf v * ((x : Rat) / y) = v.toInt * (x * y) / (2 ^ 64 * y ^ 2) := by
    rw [realOf, raw, sint]
    field_simp
  rw [heq]
  positivity

/-- Rule R150: multiplying the signs of the value and of its divisor gives back the sign of the numerator, unless the
value is zero. -/
theorem sign_mul_sign_of_quotient (hpos : 0 < x.natAbs * 2 ^ 64 / y.natAbs) : v.toInt.sign * y.sign = x.sign := by
  have hprod : v.toInt * y = x.sign * ((y.natAbs * (x.natAbs * 2 ^ 64 / y.natAbs) : Nat) : Int) := by
    rw [hv, Nat.cast_mul, ← Int.sign_mul_self y]
    ring
  have hmag : 0 < y.natAbs * (x.natAbs * 2 ^ 64 / y.natAbs) := Nat.mul_pos (Int.natAbs_pos.mpr hy) hpos
  rw [← Int.sign_mul, hprod, Int.sign_mul, Int.sign_sign, Int.sign_natCast_of_ne_zero hmag.ne', mul_one]

/-- Rules R149, R152: the product with the divisor rounds back to the numerator: the quotient is short of the fraction by
less than one unit of the last place, which the divisor makes at most half of the unit that `MULINT` rounds to. -/
theorem roundedProduct_of_quotient (hle : y.natAbs ≤ 2 ^ 63) : roundedProduct v.toInt y = x := by
  have hmag := natAbs_of_quotient hy hv
  have hround : (v.toInt.natAbs * y.natAbs + 2 ^ 63) / 2 ^ 64 = x.natAbs := by
    have hdiv := Nat.div_add_mod' (x.natAbs * 2 ^ 64) y.natAbs
    have hrem := Nat.mod_lt (x.natAbs * 2 ^ 64) (Int.natAbs_pos.mpr hy)
    rw [hmag]
    omega
  have hsigned : v.toInt.sign * y.sign * x.natAbs = x := by
    obtain rfl | hx := eq_or_ne x 0
    · simp
    · have hpos : 0 < x.natAbs * 2 ^ 64 / y.natAbs := Nat.div_pos (by omega) (Int.natAbs_pos.mpr hy)
      rw [sign_mul_sign_of_quotient hy hv hpos, Int.sign_mul_natAbs]
  rw [roundedProduct, if_neg hy]
  split
  next hone =>
    have hwhole : v.toInt.natAbs / 2 ^ 64 = x.natAbs := by
      rw [hmag, hone, Int.natAbs_one, Nat.div_one, Nat.mul_div_cancel _ (by positivity)]
    rwa [hone, Int.sign_one, mul_one, ← hwhole] at hsigned
  next => rw [hround, hsigned]

end Quotient

/-! ## Clocks -/

/-- A clock edge that answers a next state, and those after it. -/
theorem clocks_cons {p : PinsIn} {m n : Clocked} (h : clock p m = .next n) (rest : List PinsIn) :
    clocks (p :: rest) m = clocks rest n := by
  rw [clocks, h]

/-- Clock edges that answer a next state, and one after them. -/
theorem clocks_concat {l : List PinsIn} {p : PinsIn} {m n n' : Clocked} (h : clocks l m = .next n)
    (hp : clock p n = .next n') : clocks (l ++ [p]) m = .next n' := by
  induction l generalizing m with
  | nil => cases h; exact clocks_cons hp []
  | cons q rest ih =>
    rw [clocks] at h
    cases hq : clock q m with
    | next m' => rw [hq] at h; exact (clocks_cons hq _).trans (ih h)
    | fault k => cases k
    | refused k => rw [hq] at h; cases h

/-- Rule R244: `cmd_valid` on an idle core issues the command. -/
theorem clock_command {m : Clocked} (hidle : m.core.busy = 0) (c : BitVec 8) :
    clock (PinsIn.command c) m =
      .next { core := m.core.issue c, done := false, left := Config.extraClocks m.issued, issued := m.issued + 1 } := by
  simp [clock, PinsIn.command, PinsIn.quiet, PinsIn.writes, hidle]

/-- Rule R244: nothing asked for on an idle core lets `done` fall. -/
theorem clock_quiet_of_idle {m : Clocked} (hidle : m.core.busy = 0) :
    clock PinsIn.quiet m = .next { m with done := false } := by
  simp [clock, PinsIn.quiet, PinsIn.writes, hidle]

/-- Rule R244: while the command runs, each quiet clock is one of those it still needs. -/
theorem clocks_quiet_of_busy {s : State} (hbusy : s.busy = 1) (j left issued : Nat) :
    clocks (List.replicate j PinsIn.quiet) { core := s, done := false, left := left + j, issued := issued } =
      .next { core := s, done := false, left := left, issued := issued } := by
  induction j with
  | zero => rfl
  | succ j ih =>
    have hclock : clock PinsIn.quiet { core := s, done := false, left := left + (j + 1), issued := issued } =
        .next { core := s, done := false, left := left + j, issued := issued } := by
      simp [clock, PinsIn.quiet, PinsIn.writes, hbusy]
    rw [List.replicate_succ, clocks_cons hclock, ih]

/-- Rule R244: in the clock after the last of them the command completes, with `done`. -/
theorem clock_quiet_completes {s t : State} (hbusy : s.busy = 1) (hrun : runCode s.cmd s = .next t) (issued : Nat) :
    clock PinsIn.quiet { core := s, done := false, left := 0, issued := issued } =
      .next { core := t, done := true, left := 0, issued := issued } := by
  simp [clock, PinsIn.quiet, PinsIn.writes, hbusy, hrun]

/-- Rule R241: `rst` wins over everything. -/
theorem clock_of_rst {p : PinsIn} (h : p.rst = true) (m : Clocked) :
    clock p m = .next { m with core := m.core.resetRegs, done := false, left := 0 } := by
  rw [clock, if_pos h]

/-- Rules R244, R51: an idle core takes the writes of the enabled ports. -/
theorem clock_of_writes {p : PinsIn} {m : Clocked} (hidle : m.core.busy = 0) (hrst : p.rst = false)
    (hcmd : p.cmdValid = false) :
    clock p m = .next { m with core := p.writes.foldl (fun s w => s.applyWrite w) m.core, done := false } := by
  simp [clock, hidle, hrst, hcmd]

/-! ## Script lines -/

/-- Rule R74: a text line on an idle core. -/
theorem runScript_wr_text {t : List Byte} {s : State} (hidle : s.busy = 0) (hlen : t.length ≤ 127)
    (hascii : ∀ c ∈ t, c.toNat < 128) :
    runScript [.wr .it (.text t)] s =
      some (.next { s with it := buffer 127 t, itlen := BitVec.ofNat 7 t.length }) := by
  have hwf : (ScriptLine.wr .it (.text t)).wf = true := by
    simpa [ScriptLine.wf, ScriptValue.fits, Reg.cls, Config.TMAX, hlen] using hascii
  have hexpand : (ScriptLine.wr .it (.text t)).expand s =
      some [.wr (.it (buffer 127 t)), .wr (.itlen (BitVec.ofNat 7 t.length))] := if_pos hwf
  exact (runScript_cons hexpand (hostActs_writes (l := [.it _, .itlen _]) hidle)).trans rfl

/-- Rules R74, R75: a line that stands for one write, on an idle core. -/
theorem runScript_write {line : ScriptLine} {w : OperandWrite} {s : State} (hidle : s.busy = 0)
    (h : line.expand s = some [.wr w]) : runScript [line] s = some (.next (s.applyWrite w)) :=
  runScript_cons h (hostActs_writes (l := [w]) hidle)

/-- Rule R75: `MV` on an idle core reads the result and writes it to the operand register. -/
theorem runScript_mv {dst src : Reg} {w : OperandWrite} {s : State} (hidle : s.busy = 0)
    (h : copyOf dst (s.read src) = some w) :
    runScript [.mv dst src] s = some (.next (State.applyWrite w { s with seen := s.seen ++ [s.read src] })) := by
  have hexpand : (ScriptLine.mv dst src).expand s = some [.rd src, .wr w] := by rw [ScriptLine.expand, h]; rfl
  refine (runScript_cons hexpand ?_).trans rfl
  rw [hostActs, hostAct]
  exact hostActs_writes (l := [w]) (s := { s with seen := s.seen ++ [s.read src] }) hidle

/-- Rule R75, log entry 9: the registers that `MV` may name. -/
theorem mv_wf_iff (dst src : Reg) :
    (ScriptLine.mv dst src).wf = true ↔ (dst, src) ∈ [(Reg.a, Reg.r), (.b, .r), (.ib, .ob)] := by
  cases dst <;> cases src <;> decide

/-- Rules R31, R75: the output text copied by `MVT`, with zero bytes after it. -/
theorem copyText_it_toList {s : State} (h : s.otlen.toNat ≤ 34) :
    s.copyText.it.toList = s.ot.toList.take s.otlen.toNat ++ List.replicate (127 - s.otlen.toNat) 0 := by
  have hlen : s.outputText.length = s.otlen.toNat := by simp [State.outputText, h]
  rw [State.copyText_it, buffer_toList (by omega), hlen]
  rfl

end Sys2Proof.Machine

namespace Sys2Proof.Proofs.OtherFamily

open Sys2Proof.Machine Sys2Proof.Safety

/-- Settles O7: a step is idle or a host action, and each of them keeps the invariant. -/
theorem stepKeepsRunInvariant : Obligations.StepKeepsRunInvariant := by
  unfold Obligations.StepKeepsRunInvariant
  intro s t hs h
  obtain ⟨-, rfl⟩ | ⟨act, rest, -, hact⟩ := step_cases h
  · exact hs
  · exact hostAct_inv (s := { s with script := rest }) (inv_of_observed_eq hs rfl) hact

/-- Settles O10: a result reaches the registers of its row, and completion `ERR` and `BUSY`. -/
theorem commandWritesOnlyItsTableRow : Obligations.CommandWritesOnlyItsTableRow := by
  unfold Obligations.CommandWritesOnlyItsTableRow
  intro i s t h
  obtain ⟨u, hu, hbusy, hscript, hseen⟩ := exec_completes i s
  cases h.symm.trans hu
  exact ⟨fun x => exec_read h, hbusy, hscript, hseen⟩

/-- Settles O11: an error in `ERR` has been raised at the issued state. -/
theorem failedCommandWritesOnlyErr : Obligations.FailedCommandWritesOnlyErr := by
  unfold Obligations.FailedCommandWritesOnlyErr
  intro c s t hidle h herr
  obtain ⟨k, rfl⟩ := runCode_of_err_ne_zero (runCode_issue_of_hostAct_cmd h) herr
  exact State.raise_issue_of_idle hidle c k

/-- Settles O12: a step is idle or a host action, which an idle core permits and completes. -/
theorem idleCoreAlwaysSteps : Obligations.IdleCoreAlwaysSteps := by
  unfold Obligations.IdleCoreAlwaysSteps
  intro s hidle
  cases hs : s.script with
  | nil => exact ⟨s, step_idle hs, hidle⟩
  | cons act rest =>
    rw [step_act hs]
    exact hostAct_completes_of_idle (s := { s with script := rest }) hidle act

/-- Settles O18: no action sees the list of the actions after it. -/
theorem scriptRunsActionByAction : Obligations.ScriptRunsActionByAction := by
  unfold Obligations.ScriptRunsActionByAction
  exact run_setScript

/-- Settles O22: the quotient is the library's truncated one, whose law of the remainder is the spec's. -/
theorem quoSignTable : Obligations.QuoSignTable := by
  unfold Obligations.QuoSignTable
  intro s t h0 h
  rw [exec_quo_of_ne_zero h0] at h
  cases h
  have hquot := toInt_wrap_tdiv (x := s.a) h0
  rw [tdiv_eq_sign_mul_natAbs] at hquot
  refine ⟨fun ha hb => ?posPos, fun ha hb => ?negPos, fun ha hb => ?posNeg, fun ha hb hmin => ?negNeg,
    fun ha => ?zero, fun hmin => ?remainder⟩
  case posPos =>
    rw [hquot (by omega), Int.sign_eq_one_of_pos ha, Int.sign_eq_one_of_pos hb, Int.natAbs_of_nonneg ha.le,
      Int.natAbs_of_nonneg hb.le, one_mul, one_mul]
  case negPos =>
    rw [hquot (by omega), Int.sign_eq_neg_one_of_neg ha, Int.sign_eq_one_of_pos hb, Int.natAbs_of_nonneg hb.le,
      mul_one, neg_one_mul]
  case posNeg =>
    rw [hquot (by omega), Int.sign_eq_one_of_pos ha, Int.sign_eq_neg_one_of_neg hb, Int.natAbs_of_nonneg ha.le,
      one_mul, neg_one_mul]
  case negNeg =>
    rw [hquot hmin, Int.sign_eq_neg_one_of_neg ha, Int.sign_eq_neg_one_of_neg hb, neg_one_mul, neg_neg, one_mul]
  case zero =>
    have hlt : s.a.toInt.natAbs < s.b.toInt.natAbs := by rw [ha]; exact Int.natAbs_pos.mpr h0
    change wrap 128 _ = 0
    rw [tdiv_eq_zero_of_natAbs_lt hlt]
    rfl
  case remainder =>
    rw [toInt_wrap_tdiv h0 hmin, ← Int.tmod_def, Int.natAbs_tmod]
    exact ⟨Nat.mod_lt _ (Int.natAbs_pos.mpr h0), tmod_mul_nonneg _ _⟩

/-- Settles O39: the bounds of the quotient of the magnitudes, in units of the last place. -/
theorem consRoundsTowardZero : Obligations.ConsRoundsTowardZero := by
  unfold Obligations.ConsRoundsTowardZero
  intro s t h0 h hfits
  rw [exec_cons_of_ne_zero h0] at h
  cases h
  have hv := toInt_wrap_signedQuotient h0 hfits
  refine ⟨abs_realOf_le_abs_div h0 hv, abs_div_lt_abs_realOf_add h0 hv, realOf_mul_div_nonneg h0 hv, hv, fun ha => ?_⟩
  apply (toInt_eq_zero_iff _).mp
  rw [hv, ha]
  simp

/-- Settles O40: the quotient fits `R`, and its product with the divisor rounds back. -/
theorem consThenMulintReturnsTheNumerator : Obligations.ConsThenMulintReturnsTheNumerator := by
  unfold Obligations.ConsThenMulintReturnsTheNumerator
  intro s h0 hle hlt
  have hfits : s.a.toInt.natAbs * 2 ^ 64 / s.b.toInt.natAbs < 2 ^ 127 := by
    rw [Nat.div_lt_iff_lt_mul (Int.natAbs_pos.mpr h0)]
    omega
  refine ⟨_, _, exec_cons_of_ne_zero h0, exec_mulint _, ?_, rfl⟩
  exact (toInt_wrap_roundedProduct _ _).trans
    (roundedProduct_of_quotient h0 (toInt_wrap_signedQuotient h0 (.inl hfits)) hle)

/-- Settles O50: the automatic window leaves no byte out but zeros. -/
theorem hexRoundTrip : Obligations.HexRoundTrip := by
  unfold Obligations.HexRoundTrip
  intro s hidle
  have hlegal := autoPrecision_legal (sm17 s.a)
  obtain ⟨t, hrun, ha, herr, hr⟩ := runScript_mvt_fromhex hlegal s.a (s.issue (encode .tohex))
  obtain ⟨hbefore, -⟩ := autoHigh_spec (sm17 s.a)
  obtain ⟨hafter, -⟩ := autoLow_spec (sm17 s.a)
  have hwhole : windowMagnitude s.a (autoHigh (sm17 s.a)) (autoLow (sm17 s.a)) = mag s.a :=
    (windowMagnitude_eq_mag_iff hlegal s.a).mpr ⟨hbefore, fun j hj hlt => hafter j hj (Nat.le_of_lt_succ hlt)⟩
  refine ⟨t, (runScript_cmd hidle (exec_tohex _)).trans hrun, ?_, ha, herr⟩
  rw [hr, wrap_sign_mul_eq_iff hwhole.le, hwhole]

/-- Settles O56: the line is two writes, of the text with zeros after it and of its length. -/
theorem textLineSetsTheInputText : Obligations.TextLineSetsTheInputText := by
  unfold Obligations.TextLineSetsTheInputText
  intro s t hidle hlen hascii
  have hitlen : (BitVec.ofNat 7 t.length).toNat = t.length := by rw [BitVec.toNat_ofNat]; omega
  refine ⟨_, runScript_wr_text hidle hlen hascii, ?_, hitlen, rfl, fun i hi => ?_⟩
  · rw [State.inputText, uint, hitlen, buffer_take hlen]
  · rw [Fin.getElem_fin, buffer_getElem, List.getD_eq_default _ _ hi]

/-- Settles O58: the clocks the command needs, the one in which it completes, and the one after it. -/
theorem pinsRefineTheAtomicCommand : Obligations.PinsRefineTheAtomicCommand := by
  unfold Obligations.PinsRefineTheAtomicCommand
  intro m c hidle
  obtain ⟨t, hrun, ht⟩ := runCode_completes c (m.core.issue c)
  have hwaiting : ∀ j ≤ Config.extraClocks m.issued, clocks (PinsIn.command c :: List.replicate j PinsIn.quiet) m =
      .next { core := m.core.issue c, done := false, left := Config.extraClocks m.issued - j,
              issued := m.issued + 1 } := fun j hj => by
    rw [clocks_cons (clock_command hidle c), ← clocks_quiet_of_busy (s := m.core.issue c) rfl j,
      Nat.sub_add_cancel hj]
  have hdone : clocks (PinsIn.command c :: List.replicate (Config.extraClocks m.issued + 1) PinsIn.quiet) m =
      .next { core := t, done := true, left := 0, issued := m.issued + 1 } := by
    rw [List.replicate_succ', ← List.cons_append]
    refine clocks_concat (hwaiting _ le_rfl) ?_
    rw [Nat.sub_self]
    exact clock_quiet_completes rfl hrun _
  refine ⟨_, t, (hostAct_cmd_of_idle hidle c).trans hrun, fun j hj => ⟨_, hwaiting j hj⟩, hdone, ?_⟩
  rw [List.replicate_succ', ← List.cons_append]
  exact clocks_concat hdone (clock_quiet_of_idle ht)

/-- Settles O59: after `rst` the core is idle at its reset values. -/
theorem pinResetAbortsARunningCommand : Obligations.PinResetAbortsARunningCommand := by
  unfold Obligations.PinResetAbortsARunningCommand
  intro m p hrst
  exact ⟨_, clock_of_rst hrst m, m.core.resetRegs_read, rfl, clock_quiet_of_idle rfl⟩

/-- Settles O60: writes of different ports commute, so the order in which they are taken does not matter. -/
theorem pinWritesAreHostWrites : Obligations.PinWritesAreHostWrites := by
  unfold Obligations.PinWritesAreHostWrites
  intro m p hidle hrst hcmd
  refine ⟨_, clock_of_writes hidle hrst hcmd, fun l hperm => ?_⟩
  rw [hostActs_writes hidle, hperm.symm.foldl_eq' fun v hv w hw s => applyWrite_comm_of_ports hv hw s]

/-- Settles O2: the two cases of the list of actions. -/
theorem stepTakesTheNextHostAction : Obligations.StepTakesTheNextHostAction := by
  unfold Obligations.StepTakesTheNextHostAction
  exact ⟨fun _ => step_idle, fun _ _ _ => step_act⟩

/-- Settles O3: an issued code of the table is executed, and `withFetchWord` places the code to issue. -/
theorem stepRunsTheDecodedCommand : Obligations.StepRunsTheDecodedCommand := by
  unfold Obligations.StepRunsTheDecodedCommand
  refine ⟨fun s c rest i hscript hidle hdec _ => step_cmd_of_decode hscript hidle hdec, fun s nbits w i h => ?_⟩
  obtain ⟨hw, hdec⟩ := decode_of_decodeTableWord h
  rw [State.withFetchWord, hw]
  exact step_cmd_of_decode rfl rfl hdec

/-- Settles O5: each word is compared with the rows of the table. -/
theorem decoderReadsTheTableCodes : Obligations.DecoderReadsTheTableCodes := by
  unfold Obligations.DecoderReadsTheTableCodes
  decide

/-- Settles O6: the encoder's codes are the table's, and a byte string is decoded byte by byte. -/
theorem encodeAndDecodeAgree : Obligations.EncodeAndDecodeAgree := by
  unfold Obligations.EncodeAndDecodeAgree
  refine ⟨fun i _ => decode_encode i, fun c i => encode_of_decode, fun i rest => ?_⟩
  rw [decodeBytes, decode_encode]

/-- Settles O8: every length and `ERR` are 0 at reset, so nothing is asked of the buffers but zeros. -/
theorem resetHasRunInvariant : Obligations.ResetHasRunInvariant := inv_reset

/-- Settles O15: a write on an idle core is not refused. -/
theorem hostWriteWritesOneOperandRegister : Obligations.HostWriteWritesOneOperandRegister := by
  unfold Obligations.HostWriteWritesOneOperandRegister
  intro s hidle
  exact ⟨fun v => hostAct_wr_of_idle hidle (.a v), fun v => hostAct_wr_of_idle hidle (.b v),
    fun v => hostAct_wr_of_idle hidle (.hs v), fun v => hostAct_wr_of_idle hidle (.le v),
    fun v => hostAct_wr_of_idle hidle (.ib v), fun v => hostAct_wr_of_idle hidle (.it v),
    fun v => hostAct_wr_of_idle hidle (.itlen v)⟩

/-- Settles O16: a read changes the host's record only, which no read looks at. -/
theorem hostReadReturnsTheRegister : Obligations.HostReadReturnsTheRegister := by
  unfold Obligations.HostReadReturnsTheRegister
  refine ⟨fun s x => ⟨_, rfl, rfl, read_seen s _, ?_⟩, fun s => by simp only [State.read, and_self]⟩
  rw [hostAct, read_seen, List.append_assoc]
  rfl

/-- Settles O55: each line is a read followed by a write, or a write alone; the well-formed ones are found among the
registers. -/
theorem pseudoActionsCopyRegisters : Obligations.PseudoActionsCopyRegisters := by
  unfold Obligations.PseudoActionsCopyRegisters
  refine ⟨fun s hidle => ⟨runScript_mv (w := .a s.r) hidle rfl, runScript_mv (w := .b s.r) hidle rfl,
    runScript_mv (w := .ib s.ob) hidle rfl, runScript_mvb hidle,
    fun hlen => ⟨_, _, runScript_mvt hidle, ?_, copyText_it_toList hlen⟩,
    runScript_write (w := .a ZERO) hidle rfl, runScript_write (w := .b ZERO) hidle rfl,
    runScript_write (w := .hs 0) hidle rfl, runScript_write (w := .le 0) hidle rfl,
    runScript_write (w := .itlen 0) hidle rfl,
    runScript_write (w := .a ONE) hidle rfl, runScript_write (w := .b ONE) hidle rfl⟩, mv_wf_iff, fun x => ?_,
    fun x => ?_⟩
  · rw [BitVec.toNat_setWidth]
    omega
  · cases x <;> decide
  · cases x <;> decide

end Sys2Proof.Proofs.OtherFamily
end
